-- ==== Sys2Proof/Word.lean ====
section
/-!
DEFINITION. The word types of RXL-FP: a byte is 8 bits everywhere (`20_memory.md` R33); `u16`, `u32` are unsigned
integers of those widths (`00_scope.md` R11); buffer lengths fit 17 bits (`10_state.md` R16).
-/
namespace Sys2Proof

/-- A byte, `u8`. -/
abbrev Byte := BitVec 8

/-- `u16`: an address, a CRC remainder. -/
abbrev Word16 := BitVec 16

/-- `u32`: a register value. -/
abbrev Word32 := BitVec 32

/-- A buffer length register (`PLEN`, `RES_PLEN`; `10_state.md` R16, R17). -/
abbrev Len := BitVec 17

end Sys2Proof
end

