-- ==== Sys2Proof/Syntax.lean ====
section
/-!
DEFINITION. The syntax of RXL-FP: the sixteen rows of `spec/opcode_table.json` (`Instr`), and the closed sets of names
the wire side speaks in (`FrameError` causes, the status packet, the two protocol versions).
-/
namespace Sys2Proof

/-- The protocol version, an immutable tag (`00_scope.md` R7; `10_state.md` R14). -/
inductive Version where
  | v1
  | v2
deriving DecidableEq, Repr, Inhabited

/-- Which bytes the v2 CRC covers (`40_checksum_crc.md` R66). -/
inductive CrcSpan where
  | afterHeader
  | wholeFrame
deriving DecidableEq, Repr, Inhabited

/-- The four causes of `FRAME_ERROR` (`60_exceptions.md` R127). -/
inductive Cause where
  | header
  | length
  | check
  | unstuff
deriving DecidableEq, Repr, Inhabited

/-- What a successful decode returns (`41_codec_v1.md` R73; `42_codec_v2.md` R87). `instr` is `none` in v1, whose
status packet has no instruction field. -/
structure StatusPacket where
  id     : Byte
  instr  : Option Byte
  error  : Byte
  params : List Byte
deriving DecidableEq, Repr, Inhabited

/-- A legal data width in bytes: 1, 2 or 4 (`43_register_descriptor.md` R92). -/
inductive Width where
  | w1
  | w2
  | w4
deriving DecidableEq, Repr, Inhabited

/-- The wire side a frame stands at. RXL-FP transmits instruction frames and receives status frames; the bytes alone do
not tell the two kinds apart (`41_codec_v1.md` R76; log 14). -/
inductive Side where
  | tx
  | rx
deriving DecidableEq, Repr, Inhabited

/-- One constructor per row of `spec/opcode_table.json`. The four commands take their operands from the operand
registers (`30_encoding.md` R60); the twelve frame rows carry theirs in the frame (log 12). -/
inductive Instr where
  /-- `ENCODE`, `44_transaction_engine.md` R102. -/
  | encode
  /-- `DECODE`, R103. -/
  | decode
  /-- `READ_DATA`, R104. -/
  | readData
  /-- `WRITE_DATA`, R105. -/
  | writeData
  /-- `V1.INSTRUCTION`, `30_encoding.md` R49. -/
  | v1Instruction (id opcode : Byte) (params : List Byte)
  /-- `V1.STATUS`, `30_encoding.md` R50. -/
  | v1Status (id error : Byte) (params : List Byte)
  /-- `V2.INSTRUCTION`, `30_encoding.md` R53; `params` before stuffing. -/
  | v2Instruction (id opcode : Byte) (params : List Byte)
  /-- `V2.STATUS`, `30_encoding.md` R54; `error` and `params` before stuffing. -/
  | v2Status (id instr error : Byte) (params : List Byte)
  /-- `READ.V1`, `30_encoding.md` R56. -/
  | readV1 (id addr : Byte) (width : Width)
  /-- `READ.V2`, R56. -/
  | readV2 (id : Byte) (addr : Word16) (width : Width)
  /-- `WRITE.V1.W1`, R56. -/
  | writeV1W1 (id addr : Byte) (value : Byte)
  /-- `WRITE.V1.W2`, R56. -/
  | writeV1W2 (id addr : Byte) (value : Word16)
  /-- `WRITE.V1.W4`, R56. -/
  | writeV1W4 (id addr : Byte) (value : Word32)
  /-- `WRITE.V2.W1`, R56. -/
  | writeV2W1 (id : Byte) (addr : Word16) (value : Byte)
  /-- `WRITE.V2.W2`, R56. -/
  | writeV2W2 (id : Byte) (addr : Word16) (value : Word16)
  /-- `WRITE.V2.W4`, R56. -/
  | writeV2W4 (id : Byte) (addr : Word16) (value : Word32)
deriving DecidableEq, Repr, Inhabited

/-- The words of an instruction as they are fetched: the 3-bit code at the command port, or a frame at one wire side. -/
inductive Words where
  | command (code : BitVec 3)
  | frame (side : Side) (bytes : List Byte)
deriving DecidableEq, Repr, Inhabited

end Sys2Proof
end

