-- ==== Sys2Proof/Config.lean ====
section
/-!
DEFINITION. What an instance fixes (the record `CFG`, `10_state.md` R14) and the free values: what the spec leaves
unspecified after a command (`60_exceptions.md` R133 step 2, `93_implementation_defined.md` U8), as constants with no body.
-/
namespace Sys2Proof

/-- `CFG.TIMEOUT`, an opaque duration (`00_scope.md` R10): a token RXL-FP passes to the transport and never interprets
(log 23). -/
structure Timeout where
  token : Nat
deriving DecidableEq, Repr, Inhabited

/-- The configuration record `CFG` (`10_state.md` R14): read-only, set when the instance is constructed. -/
structure Cfg where
  version      : Version
  broadcastId  : Byte
  resyncWindow : Nat
  timeout      : Timeout
  crcSpan      : CrcSpan
deriving DecidableEq, Repr, Inhabited

/-- The configuration of `State.reset`. `BROADCAST_ID = 0xFE` and `CRC_SPAN_V2 = AfterHeader` are this hardware's values
(R14). DESIGN CHOICE (log 3): the constructor arguments `VERSION`, `RESYNC_WINDOW`, `TIMEOUT` have no default in the spec. -/
def Config.default : Cfg where
  version      := .v1
  broadcastId  := 0xFE
  resyncWindow := 0
  timeout      := ⟨0⟩
  crcSpan      := .afterHeader

/-- Free value (log 8): `RES_CAUSE` where the result delivered does not name it; the argument is the delivery's number. -/
opaque Config.freeCause : Nat → Cause
/-- Free value (log 8): `RES_ID` where the result delivered does not name it. -/
opaque Config.freeId : Nat → Byte
/-- Free value (log 8): `RES_INSTR` where the result delivered does not name it. -/
opaque Config.freeInstr : Nat → Byte
/-- Free value (log 8): `RES_ERR` where the result delivered does not name it. -/
opaque Config.freeErr : Nat → Byte
/-- Free value (log 8): `RES_VALUE` where the result delivered does not name it. -/
opaque Config.freeValue : Nat → Word32
/-- Free value (log 8): `RES_PLEN` where the result delivered does not name it. -/
opaque Config.freePlen : Nat → Len
/-- Free value (log 8): the bytes of `RES_PARAMS` where the result delivered does not name it. -/
opaque Config.freeParams : Nat → List Byte

end Sys2Proof
end

