-- ==== Sys2Proof/Machine/Wire.lean ====
section
/-!
DEFINITION. The wire literals, the byte-order helpers and the frame sizes (`20_memory.md` R34, R35; `30_encoding.md`;
`43_register_descriptor.md` R93, R94). The v2 literals and the WRITE opcode are the spec's general knowledge (log 17).
-/
namespace Sys2Proof.Machine

/-- The opcode the engine sends for a read (`30_encoding.md` R56). -/
def opRead : Byte := 0x02

/-- The opcode the engine sends for a write (R56, D13). -/
def opWrite : Byte := 0x03

/-- The instruction value `ENCS_V2` writes in a status frame (R54, D11). -/
def statusInstr : Byte := 0x55

/-- The v1 header (R48). -/
def markV1 : List Byte := [0xFF, 0xFF]

/-- The v2 header: three marker bytes and the reserved byte (R52, D3). -/
def markV2 : List Byte := [0xFF, 0xFF, 0xFD, 0x00]

/-- `MARK` of `44_transaction_engine.md` R106. -/
def mark : Version → List Byte
  | .v1 => markV1
  | .v2 => markV2

/-- H, the header length (R106). -/
def headerLen : Version → Nat
  | .v1 => 2
  | .v2 => 4

/-- P, the fixed bytes after the header: ID and the length field (R106). -/
def prefixLen : Version → Nat
  | .v1 => 2
  | .v2 => 3

/-- The least LEN of a status frame: ERR and CHK in v1, INSTR, ERR and CRC in v2 (R106; `41_codec_v1.md` R77;
`42_codec_v2.md` R87). -/
def minStatusLen : Version → Nat
  | .v1 => 2
  | .v2 => 4

/-- The least LEN of an instruction frame: INSTR and CHK in v1, INSTR and CRC in v2 (R51, R55). -/
def minInstrLen : Version → Nat
  | .v1 => 2
  | .v2 => 3

/-- `MAX_PARAMS_V1` (`00_scope.md` R10; `41_codec_v1.md` R75). -/
def maxParamsV1 : Nat := 253

/-- `MAX_STUFFED_V2` (`00_scope.md` R10; `42_codec_v2.md` R85). -/
def maxStuffedV2 : Nat := 65532

/-- Capacity of `TXBUF` and `RXBUF`: the longest frame (`10_state.md` R19, R20; `30_encoding.md` R63). -/
def frameCapacity : Version → Nat
  | .v1 => 259
  | .v2 => 65542

/-- Low byte of a 16-bit field. -/
def lo8 (v : Word16) : Byte := v.setWidth 8

/-- High byte of a 16-bit field. -/
def hi8 (v : Word16) : Byte := (v >>> 8).setWidth 8

/-- A 16-bit field from its low and high byte, low byte first on the wire (`20_memory.md` R35). -/
def word16 (lo hi : Byte) : Word16 := lo.setWidth 16 ||| (hi.setWidth 16 <<< 8)

/-- `LE_BYTES(v, w)`: byte `k` is `v[8k+7:8k]` (`43_register_descriptor.md` R93; `20_memory.md` R34). -/
def leBytes (v : Word32) : Nat → List Byte
  | 0 => []
  | w + 1 => v.setWidth 8 :: leBytes (v >>> 8) w

/-- `LE_VALUE(s)`, zero-extended to 32 bits (`43_register_descriptor.md` R94). -/
def leValue : List Byte → Word32
  | [] => 0
  | b :: bs => b.setWidth 32 ||| (leValue bs <<< 8)

/-- The number of bytes of a width. -/
def widthBytes : Width → Nat
  | .w1 => 1
  | .w2 => 2
  | .w4 => 4

/-- The width as the `OP_REGW` and `OP_REQW` registers hold it (`10_state.md` R15). -/
def widthCode (w : Width) : BitVec 3 := BitVec.ofNat 3 (widthBytes w)

/-- The width as a parameter byte of the read instruction (R56). -/
def widthByte (w : Width) : Byte := BitVec.ofNat 8 (widthBytes w)

/-- The width a parameter byte names, if it is 1, 2 or 4. -/
def widthOfByte (b : Byte) : Option Width :=
  if b = 1 then some .w1 else if b = 2 then some .w2 else if b = 4 then some .w4 else none

/-- `s[i]`; every use first establishes `i < len(s)` (`20_memory.md` R33). -/
def byteAt (s : List Byte) (i : Nat) : Byte := s.getD i 0

/-- `s[i..j)` (`00_scope.md` R11). -/
def slice (s : List Byte) (i j : Nat) : List Byte := (s.drop i).take (j - i)

end Sys2Proof.Machine
end

