-- ==== Sys2Proof/Machine/Checksum.lean ====
section
/-!
DEFINITION. The checksum and CRC unit (`40_checksum_crc.md`): pure functions of their argument (R70), and the values
their accumulators `CHK8` and `CRC16` (`10_state.md` R25) hold at the end of a use.
-/
namespace Sys2Proof.Machine

/-- The running truncated sum `acc` of R64 after all of `s`: what `CHK8` holds. -/
def chkSum (s : List Byte) : Byte := s.foldl (· + ·) 0

/-- `CHECKSUM_V1(s)` (R64): one's complement of the truncated sum. -/
def checksumV1 (s : List Byte) : Byte := ~~~ (chkSum s)

/-- One shift of the CRC register (R65). -/
def crcShift (crc : Word16) : Word16 :=
  if crc.msb then (crc <<< 1) ^^^ 0x8005 else crc <<< 1

/-- `n` shifts of the CRC register. -/
def crcShifts : Nat → Word16 → Word16
  | 0, crc => crc
  | n + 1, crc => crcShifts n (crcShift crc)

/-- One byte enters at the high end, then eight shifts (R65). -/
def crcByte (crc : Word16) (d : Byte) : Word16 :=
  crcShifts 8 (crc ^^^ (d.setWidth 16 <<< 8))

/-- `CRC_V2(s)` (R65), seeded at zero: also what `CRC16` holds after all of `s`. -/
def crcV2 (s : List Byte) : Word16 := s.foldl crcByte 0

/-- One byte step of the table-driven form (R69), with `T[i] = CRC_V2([i])`. -/
def crcTableStep (crc : Word16) (d : Byte) : Word16 :=
  (crc <<< 8) ^^^ crcV2 [hi8 crc ^^^ d]

/-- The bytes of a v2 frame that its CRC covers (R66): `hdr` is the header, `body` what stands between it and the CRC. -/
def crcCovered (span : CrcSpan) (hdr body : List Byte) : List Byte :=
  match span with
  | .afterHeader => body
  | .wholeFrame => hdr ++ body

end Sys2Proof.Machine
end

