-- ==== Sys2Proof/Machine/CodecV1.lean ====
section
/-!
DEFINITION. The packet codec of protocol v1 (`41_codec_v1.md`): pure functions; `30_encoding.md` R49, R50 give the frames.
-/
namespace Sys2Proof.Machine

/-- The bytes the checksum covers: ID, LEN, INSTR or ERR, parameters (`40_checksum_crc.md` R67). -/
def bodyV1 (id b4 : Byte) (params : List Byte) : List Byte :=
  [id, BitVec.ofNat 8 (params.length + 2), b4] ++ params

/-- `ENC_V1(id, opcode, params)` (R74), for parameters in its domain (`inDomainV1`). -/
def encV1 (id opcode : Byte) (params : List Byte) : List Byte :=
  markV1 ++ bodyV1 id opcode params ++ [checksumV1 (bodyV1 id opcode params)]

/-- The domain of `ENC_V1` and `ENCS_V1`: LEN fits one byte (R75, R76). -/
def inDomainV1 (params : List Byte) : Bool := decide (params.length ≤ maxParamsV1)

/-- `ENCS_V1(id, error, params)` (R76). -/
def encsV1 (id error : Byte) (params : List Byte) : List Byte := encV1 id error params

/-- `DEC_V1(b)` (R77): header, length, checksum, in this order. -/
def decV1 (b : List Byte) : Except Cause StatusPacket :=
  if b.length < 2 ∨ byteAt b 0 ≠ 0xFF ∨ byteAt b 1 ≠ 0xFF then .error .header
  else if b.length < 4 then .error .length
  else if (byteAt b 3).toNat < minStatusLen .v1 then .error .length
  else if b.length ≠ (byteAt b 3).toNat + 4 then .error .length
  else if checksumV1 (slice b 2 (b.length - 1)) ≠ byteAt b (b.length - 1) then .error .check
  else .ok { id := byteAt b 2, instr := none, error := byteAt b 4, params := slice b 5 (b.length - 1) }

end Sys2Proof.Machine
end

