-- ==== Sys2Proof/Machine/Stuffing.lean ====
section
/-!
DEFINITION. Byte stuffing of v2 (`42_codec_v2.md` R81, R82): the trigger `FF FF FD` and the escape byte `FD` after it.
The matcher's count `ff` is the accumulator `FFCNT` (`10_state.md` R25).
-/
namespace Sys2Proof.Machine

/-- The marker byte of the trigger. -/
def stuffMark : Byte := 0xFF

/-- The trigger's last byte, which is also the escape byte (R81). -/
def stuffEsc : Byte := 0xFD

/-- The matcher's step on a byte that is no trigger's end: count consecutive `FF`, saturating at 2 (R81). -/
def ffNext (ff : BitVec 2) (d : Byte) : BitVec 2 :=
  if d = stuffMark then (if ff = 0 then 1 else 2) else 0

/-- `d` completes a trigger when two `FF` have just been seen (R81). -/
def isTrigger (ff : BitVec 2) (d : Byte) : Bool := d == stuffEsc && ff == 2

/-- `STUFF` from a matcher count. -/
def stuffFrom : BitVec 2 → List Byte → List Byte
  | _, [] => []
  | ff, d :: p =>
    if isTrigger ff d then d :: stuffEsc :: stuffFrom 0 p else d :: stuffFrom (ffNext ff d) p

/-- `STUFF(p)` (R81). -/
def stuff (p : List Byte) : List Byte := stuffFrom 0 p

/-- `UNSTUFF` from a matcher count. -/
def unstuffFrom : BitVec 2 → List Byte → Except Cause (List Byte)
  | _, [] => .ok []
  | ff, d :: w =>
    if isTrigger ff d then
      match w with
      | [] => .error .unstuff
      | e :: w' => if e = stuffEsc then (unstuffFrom 0 w').map (d :: ·) else .error .unstuff
    else (unstuffFrom (ffNext ff d) w).map (d :: ·)

/-- `UNSTUFF(w)` (R82). -/
def unstuff (w : List Byte) : Except Cause (List Byte) := unstuffFrom 0 w

/-- The matcher count after `STUFF` has scanned `p`: what `FFCNT` holds then. -/
def stuffCount : BitVec 2 → List Byte → BitVec 2
  | ff, [] => ff
  | ff, d :: p => if isTrigger ff d then stuffCount 0 p else stuffCount (ffNext ff d) p

/-- The matcher count where `UNSTUFF` ends, at the end of `w` or at the trigger that has no escape byte. -/
def unstuffCount : BitVec 2 → List Byte → BitVec 2
  | ff, [] => ff
  | ff, d :: w =>
    if isTrigger ff d then
      match w with
      | [] => ff
      | e :: w' => if e = stuffEsc then unstuffCount 0 w' else ff
    else unstuffCount (ffNext ff d) w

end Sys2Proof.Machine
end

