-- ==== Sys2Proof/Machine/CodecV2.lean ====
section
/-!
DEFINITION. The packet codec of protocol v2 (`42_codec_v2.md`): pure functions; `30_encoding.md` R53, R54 give the frames.
-/
namespace Sys2Proof.Machine

/-- ID, the length field, INSTR and the stuffed region: what stands between the header and the CRC (R84). -/
def bodyV2 (id instr : Byte) (region : List Byte) : List Byte :=
  [id, lo8 (BitVec.ofNat 16 (region.length + 3)), hi8 (BitVec.ofNat 16 (region.length + 3)), instr] ++ region

/-- The two CRC bytes, low byte first (`20_memory.md` R35). -/
def crcBytes (crc : Word16) : List Byte := [lo8 crc, hi8 crc]

/-- A v2 frame around a region that is already stuffed (R84, R86). -/
def frameV2 (span : CrcSpan) (id instr : Byte) (region : List Byte) : List Byte :=
  markV2 ++ bodyV2 id instr region ++ crcBytes (crcV2 (crcCovered span markV2 (bodyV2 id instr region)))

/-- `ENC_V2(id, opcode, params)` (R84), for parameters in its domain (`inDomainV2`). -/
def encV2 (span : CrcSpan) (id opcode : Byte) (params : List Byte) : List Byte :=
  frameV2 span id opcode (stuff params)

/-- The domain of `ENC_V2` (R85); for `ENCS_V2` the region is `error :: params` (R86). -/
def inDomainV2 (params : List Byte) : Bool := decide ((stuff params).length ≤ maxStuffedV2)

/-- `ENCS_V2(id, error, params)` (R86). -/
def encsV2 (span : CrcSpan) (id error : Byte) (params : List Byte) : List Byte :=
  encV2 span id statusInstr (error :: params)

/-- The bytes of a received v2 frame that its CRC covers (`40_checksum_crc.md` R66). -/
def spanOf (span : CrcSpan) (b : List Byte) : List Byte :=
  match span with
  | .afterHeader => slice b 4 (b.length - 2)
  | .wholeFrame => slice b 0 (b.length - 2)

/-- The checks of R87 up to the unstuffing, for a frame whose LEN is at least `minLen`: the unstuffed region. -/
def parseV2 (span : CrcSpan) (minLen : Nat) (b : List Byte) : Except Cause (List Byte) :=
  if b.length < 4 ∨ byteAt b 0 ≠ 0xFF ∨ byteAt b 1 ≠ 0xFF ∨ byteAt b 2 ≠ 0xFD ∨ byteAt b 3 ≠ 0x00 then .error .header
  else if b.length < 7 then .error .length
  else if (word16 (byteAt b 5) (byteAt b 6)).toNat < minLen then .error .length
  else if b.length ≠ (word16 (byteAt b 5) (byteAt b 6)).toNat + 7 then .error .length
  else if crcV2 (spanOf span b) ≠ word16 (byteAt b (b.length - 2)) (byteAt b (b.length - 1)) then .error .check
  else unstuff (slice b 8 (b.length - 2))

/-- `DEC_V2(b)` (R87): header, length, CRC, unstuffing, in this order. The region of a frame that passes is not empty. -/
def decV2 (span : CrcSpan) (b : List Byte) : Except Cause StatusPacket :=
  match parseV2 span (minStatusLen .v2) b with
  | .error c => .error c
  | .ok [] => .error .length
  | .ok (e :: ps) => .ok { id := byteAt b 4, instr := some (byteAt b 7), error := e, params := ps }

end Sys2Proof.Machine
end

