-- ==== Sys2Proof/Machine/Codec.lean ====
section
/-!
DEFINITION. The codec selected by `CFG.VERSION` (`00_scope.md` R7; `44_transaction_engine.md`: `ENC`, `DEC`), and the
name the opcode table gives an instruction frame.
-/
namespace Sys2Proof.Machine

/-- `ENC` of the instance's version. -/
def encFrame (v : Version) (span : CrcSpan) (id opcode : Byte) (params : List Byte) : List Byte :=
  match v with
  | .v1 => encV1 id opcode params
  | .v2 => encV2 span id opcode params

/-- The domain of `ENC` (`41_codec_v1.md` R75; `42_codec_v2.md` R85). -/
def inDomain (v : Version) (params : List Byte) : Bool :=
  match v with
  | .v1 => inDomainV1 params
  | .v2 => inDomainV2 params

/-- `DEC` of the instance's version. -/
def decFrame (v : Version) (span : CrcSpan) (b : List Byte) : Except Cause StatusPacket :=
  match v with
  | .v1 => decV1 b
  | .v2 => decV2 span b

/-- The parameters of the v1 read instruction: address, width (`43_register_descriptor.md` R98). -/
def readRowV1 (addr : Byte) (w : Width) : List Byte := [addr, widthByte w]

/-- The parameters of the v2 read instruction: address and width, each low byte first (R98). -/
def readRowV2 (addr : Word16) (w : Width) : List Byte := [lo8 addr, hi8 addr, widthByte w, 0x00]

/-- The parameters of the v1 write instruction: address, then the value's `n` bytes (R99). -/
def writeRowV1 (addr : Byte) (value : Word32) (n : Nat) : List Byte := addr :: leBytes value n

/-- The parameters of the v2 write instruction (R99). -/
def writeRowV2 (addr : Word16) (value : Word32) (n : Nat) : List Byte := lo8 addr :: hi8 addr :: leBytes value n

/-- The table row of a v1 instruction frame: READ.V1, WRITE.V1.W1/W2/W4 where it has their form (`30_encoding.md` R56),
else V1.INSTRUCTION. -/
def rowV1 (id opcode : Byte) (params : List Byte) : Instr :=
  if opcode = opRead then
    match params with
    | [a, w] => match widthOfByte w with
      | some w => .readV1 id a w
      | none => .v1Instruction id opcode params
    | _ => .v1Instruction id opcode params
  else if opcode = opWrite then
    match params with
    | [a, x0] => .writeV1W1 id a x0
    | [a, x0, x1] => .writeV1W2 id a ((leValue [x0, x1]).setWidth 16)
    | [a, x0, x1, x2, x3] => .writeV1W4 id a (leValue [x0, x1, x2, x3])
    | _ => .v1Instruction id opcode params
  else .v1Instruction id opcode params

/-- The table row of a v2 instruction frame, by its parameters before stuffing: READ.V2, WRITE.V2.W1/W2/W4 where it has
their form (R56), else V2.INSTRUCTION. -/
def rowV2 (id opcode : Byte) (params : List Byte) : Instr :=
  if opcode = opRead then
    match params with
    | [a0, a1, w, z] => match widthOfByte w with
      | some w => if z = 0 then .readV2 id (word16 a0 a1) w else .v2Instruction id opcode params
      | none => .v2Instruction id opcode params
    | _ => .v2Instruction id opcode params
  else if opcode = opWrite then
    match params with
    | [a0, a1, x0] => .writeV2W1 id (word16 a0 a1) x0
    | [a0, a1, x0, x1] => .writeV2W2 id (word16 a0 a1) ((leValue [x0, x1]).setWidth 16)
    | [a0, a1, x0, x1, x2, x3] => .writeV2W4 id (word16 a0 a1) (leValue [x0, x1, x2, x3])
    | _ => .v2Instruction id opcode params
  else .v2Instruction id opcode params

end Sys2Proof.Machine
end

