-- ==== Sys2Proof/WellFormed.lean ====
section
/-!
DEFINITION. Which instructions are well-formed: the parameters fit the length field (`41_codec_v1.md` R75, R76;
`42_codec_v2.md` R85, R86), and a frame that has a row of its own in the table (READ, WRITE) is named by that row (log 14).
-/
namespace Sys2Proof

/-- The check, one case per constructor. A command, and a READ or WRITE row, has no ill-formed operand: the types admit
only legal ones. -/
def Instr.wf : Instr → Bool
  | .encode => true
  | .decode => true
  | .readData => true
  | .writeData => true
  | .v1Instruction id op ps => Machine.inDomainV1 ps && (Machine.rowV1 id op ps == .v1Instruction id op ps)
  | .v1Status _ _ ps => Machine.inDomainV1 ps
  | .v2Instruction id op ps => Machine.inDomainV2 ps && (Machine.rowV2 id op ps == .v2Instruction id op ps)
  | .v2Status _ _ e ps => Machine.inDomainV2 (e :: ps)
  | .readV1 _ _ _ => true
  | .readV2 _ _ _ => true
  | .writeV1W1 _ _ _ => true
  | .writeV1W2 _ _ _ => true
  | .writeV1W4 _ _ _ => true
  | .writeV2W1 _ _ _ => true
  | .writeV2W2 _ _ _ => true
  | .writeV2W4 _ _ _ => true

/-- `i` is well-formed. -/
abbrev Instr.WellFormed (i : Instr) : Prop := i.wf = true

end Sys2Proof
end

