-- ==== Sys2Proof/Decode.lean ====
section
/-!
DEFINITION. The decoder, total on any words and rejecting by name, and after it the encoder (`30_encoding.md` R48 to R56,
R60). The version and the CRC span are the instance's configuration, never read from the wire (`00_scope.md` R7).
-/
namespace Sys2Proof

/-- Why words are no instruction. -/
inductive DecodeError where
  /-- A `CMD` code that is no command: 0, 5, 6, 7 (`30_encoding.md` R60). -/
  | notACommand (code : BitVec 3)
  /-- Bytes that are no frame of the instance's version, with the first failing check (`30_encoding.md` R59). -/
  | notAFrame (side : Side) (cause : Cause)
deriving DecidableEq, Repr

open Sys2Proof.Machine

/-- The command of a `CMD` code (`30_encoding.md` R60). -/
def decodeCommand (code : BitVec 3) : Except DecodeError Instr :=
  if code = 1 then .ok .encode
  else if code = 2 then .ok .decode
  else if code = 3 then .ok .readData
  else if code = 4 then .ok .writeData
  else .error (.notACommand code)

/-- The status row a decoded status packet stands for. -/
def statusRow (st : StatusPacket) : Instr :=
  match st.instr with
  | none => .v1Status st.id st.error st.params
  | some i => .v2Status st.id i st.error st.params

/-- A v1 frame on the transmit side. Its shape is the status frame's with INSTR where ERR stands (`30_encoding.md` R50). -/
def decodeTxV1 (b : List Byte) : Except Cause Instr :=
  (decV1 b).map (fun st => rowV1 st.id st.error st.params)

/-- A v2 frame on the transmit side: the checks of `42_codec_v2.md` R87 with the instruction frame's least LEN
(`30_encoding.md` R53, R55). -/
def decodeTxV2 (span : CrcSpan) (b : List Byte) : Except Cause Instr :=
  (parseV2 span (minInstrLen .v2) b).map (fun ps => rowV2 (byteAt b 4) (byteAt b 7) ps)

/-- The instruction a frame stands for, by the side it stands at. -/
def decodeFrame (v : Version) (span : CrcSpan) (side : Side) (b : List Byte) : Except Cause Instr :=
  match side, v with
  | .tx, .v1 => decodeTxV1 b
  | .tx, .v2 => decodeTxV2 span b
  | .rx, _ => (decFrame v span b).map statusRow

/-- The decoder. -/
def decode (v : Version) (span : CrcSpan) : Words → Except DecodeError Instr
  | .command code => decodeCommand code
  | .frame side b =>
    match decodeFrame v span side b with
    | .ok i => .ok i
    | .error c => .error (.notAFrame side c)

/-- The version whose instances a frame row belongs to; a command has none. -/
def Instr.version : Instr → Option Version
  | .encode => none
  | .decode => none
  | .readData => none
  | .writeData => none
  | .v1Instruction _ _ _ => some .v1
  | .v1Status _ _ _ => some .v1
  | .v2Instruction _ _ _ => some .v2
  | .v2Status _ _ _ _ => some .v2
  | .readV1 _ _ _ => some .v1
  | .readV2 _ _ _ => some .v2
  | .writeV1W1 _ _ _ => some .v1
  | .writeV1W2 _ _ _ => some .v1
  | .writeV1W4 _ _ _ => some .v1
  | .writeV2W1 _ _ _ => some .v2
  | .writeV2W2 _ _ _ => some .v2
  | .writeV2W4 _ _ _ => some .v2

/-- The instruction belongs to an instance of version `v`: every command does, a frame row does to its own version. -/
abbrev Instr.BelongsTo (i : Instr) (v : Version) : Prop := i.version = none ∨ i.version = some v

/-- The encoder: the words of a well-formed instruction, from the encoding tables of `30_encoding.md` R49 to R56, R60. -/
def encode (span : CrcSpan) : Instr → Words
  | .encode => .command 1
  | .decode => .command 2
  | .readData => .command 3
  | .writeData => .command 4
  | .v1Instruction id op ps => .frame .tx (encV1 id op ps)
  | .v1Status id e ps => .frame .rx (encsV1 id e ps)
  | .v2Instruction id op ps => .frame .tx (encV2 span id op ps)
  | .v2Status id i e ps => .frame .rx (encV2 span id i (e :: ps))
  | .readV1 id a w => .frame .tx (encV1 id opRead (readRowV1 a w))
  | .readV2 id a w => .frame .tx (encV2 span id opRead (readRowV2 a w))
  | .writeV1W1 id a x => .frame .tx (encV1 id opWrite (writeRowV1 a (x.setWidth 32) 1))
  | .writeV1W2 id a x => .frame .tx (encV1 id opWrite (writeRowV1 a (x.setWidth 32) 2))
  | .writeV1W4 id a x => .frame .tx (encV1 id opWrite (writeRowV1 a x 4))
  | .writeV2W1 id a x => .frame .tx (encV2 span id opWrite (writeRowV2 a (x.setWidth 32) 1))
  | .writeV2W2 id a x => .frame .tx (encV2 span id opWrite (writeRowV2 a (x.setWidth 32) 2))
  | .writeV2W4 id a x => .frame .tx (encV2 span id opWrite (writeRowV2 a x 4))

/-- The `n` bytes of a table word: byte `k` is bits `8k+7` to `8k` (the first byte holds the least significant bits). -/
def tableBytes : Nat → Nat → List Byte
  | 0, _ => []
  | n + 1, w => BitVec.ofNat 8 w :: tableBytes n (w / 256)

/-- The version of a table frame: the v2 header as v1 bytes would announce LEN = 0, which no v1 frame has (log 14). -/
def tableVersion (b : List Byte) : Version := if b.take 4 = markV2 then .v2 else .v1

/-- The side of a table frame. The table gives V1.INSTRUCTION and V1.STATUS one bit pattern, and V2.STATUS that of
V2.INSTRUCTION with one byte more. DESIGN CHOICE (log 14): in v2 INSTR = `55` marks a status frame
(`30_encoding.md` R54), in v1 a zero byte at offset 4 does (ERR = 0, no error, R50; no instruction RXL names is 0). -/
def tableSide (b : List Byte) : Side :=
  match tableVersion b with
  | .v1 => if byteAt b 4 = 0 then .rx else .tx
  | .v2 => if byteAt b 7 = statusInstr then .rx else .tx

/-- The words of a table word: a command code in one byte, or a frame of whole bytes (log 14). -/
def tableWords (nbits w : Nat) : Option Words :=
  if nbits ≤ 8 then (if w < 8 then some (.command (BitVec.ofNat 3 w)) else none)
  else some (.frame (tableSide (tableBytes ((nbits + 7) / 8) w)) (tableBytes ((nbits + 7) / 8) w))

/-- The version a table word is decoded under; a command is the same in both. -/
def wordsVersion : Words → Version
  | .command _ => Config.default.version
  | .frame _ b => tableVersion b

/-- The instruction the decoder reads from a table word, bits numbered as `spec/opcode_table.json` numbers them, under
this hardware's CRC span. -/
def decodeTableWord (nbits w : Nat) : Option Instr :=
  match tableWords nbits w with
  | none => none
  | some ws => (decode (wordsVersion ws) Config.default.crcSpan ws).toOption

end Sys2Proof
end

