-- ==== Sys2Proof/Machine/Memory.lean ====
section
/-!
DEFINITION. A buffer memory (`PBUF`, `TXBUF`, `RXBUF`, `RES_PARAMS`; `20_memory.md` R32): bytes by index from 0, as
sorted cells. RXL-FP has no addressed memory besides (`20_memory.md` R41). An unlisted byte reads 0 (log 6), so no cell
holds 0. `MemRead` and `MemWrite` are the primitives of `00_scope.md` R12. No capacity is observed
(`70_reset_and_hazards.md` R160; log 20).
-/
namespace Sys2Proof.Machine

/-- A buffer memory: cells in strictly rising order of index, none holding 0. -/
abbrev Memory := List Host.Cell

/-- The byte an unlisted index reads as (DESIGN CHOICE, log 6). -/
def memDefault : Byte := 0

/-- The byte at index `i`. -/
def memGet : Memory → Nat → Byte
  | [], _ => memDefault
  | (a, b) :: m, i => if a = i then b else memGet m i

/-- The memory with byte `b` at index `i`, in canonical form again. -/
def memSet : Memory → Nat → Byte → Memory
  | [], i, b => if b = memDefault then [] else [(i, b)]
  | (a, c) :: m, i, b =>
    if i < a then (if b = memDefault then (a, c) :: m else (i, b) :: (a, c) :: m)
    else if i = a then (if b = memDefault then m else (a, b) :: m)
    else (a, c) :: memSet m i b

/-- `MemRead(buf, i, n)`: the bytes at `i` to `i + n - 1` (`00_scope.md` R12). -/
def memRead (m : Memory) : Nat → Nat → List Byte
  | _, 0 => []
  | i, n + 1 => memGet m i :: memRead m (i + 1) n

/-- `MemWrite(buf, i, len, bytes)` (`00_scope.md` R12). -/
def memWrite (m : Memory) : Nat → List Byte → Memory
  | _, [] => m
  | i, b :: bs => memWrite (memSet m i b) (i + 1) bs

/-- All indexes of `m` lie above `lo` (strictly rising), and no cell holds the default byte. -/
def memWfFrom : Nat → Memory → Bool
  | _, [] => true
  | lo, (a, b) :: m => decide (lo ≤ a) && decide (b ≠ memDefault) && memWfFrom (a + 1) m

/-- The canonical form: strictly rising indexes, no cell at its default. -/
def Memory.wf (m : Memory) : Bool := memWfFrom 0 m

end Sys2Proof.Machine
end

