-- ==== Sys2Proof/Machine/State.lean ====
section
/-!
DEFINITION. The state of one RXL-FP instance, of its transport and of the outside world's script, as plain data
(`10_state.md` R13 to R31). Each register has one home; the spec's name stands in its docstring. Fields marked MODEL are the
model's own (INVENTORY.md).
-/
namespace Sys2Proof.Machine

/-- The descriptor's access mode, carried and never read (`10_state.md` R15; `43_register_descriptor.md` R100). -/
inductive Access where
  | readOnly
  | readWrite
deriving DecidableEq, Repr, Inhabited

/-- The command operand registers (`10_state.md` R15, R16). -/
structure Operands where
  /-- `CMD` -/
  cmd    : BitVec 3
  /-- `OP_ID` -/
  id     : Byte
  /-- `OP_OPCODE` -/
  opcode : Byte
  /-- `OP_ADDR` -/
  addr   : Word16
  /-- `OP_REGW` -/
  regw   : BitVec 3
  /-- `OP_ACCESS` -/
  access : Access
  /-- `OP_REQW` -/
  reqw   : BitVec 3
  /-- `OP_VALUE` -/
  value  : Word32
  /-- `PLEN` -/
  plen   : Len
  /-- `PBUF` -/
  pbuf   : Memory
deriving DecidableEq, Repr

/-- The result kinds (`60_exceptions.md` R126). `unknownRegister` is reserved for the host's lookup: RXL-FP never gives it. -/
inductive ResKind where
  | ok
  | frameError
  | timeout
  | motorError
  | unexpectedId
  | unknownRegister
  | widthMismatch
  | ioError
deriving DecidableEq, Repr, Inhabited

/-- The result registers, as the marks of which hold a specified value name them (`10_state.md` R17). `params` stands for
`RES_PLEN` and `RES_PARAMS`. -/
inductive ResReg where
  | kind
  | cause
  | id
  | instr
  | err
  | value
  | params
deriving DecidableEq, Repr

/-- The result registers (`10_state.md` R17, R18). -/
structure Results where
  /-- `RES_KIND` -/
  kind   : ResKind
  /-- `RES_CAUSE` -/
  cause  : Cause
  /-- `RES_ID` -/
  id     : Byte
  /-- `RES_INSTR` -/
  instr  : Byte
  /-- `RES_ERR` -/
  err    : Byte
  /-- `RES_VALUE` -/
  value  : Word32
  /-- `RES_PLEN` -/
  plen   : Len
  /-- `RES_PARAMS` -/
  params : Memory
  /-- MODEL: the registers that hold a specified value (`10_state.md` R17, R29; log 21). -/
  specified : List ResReg
deriving DecidableEq, Repr

/-- The frame buffers (`10_state.md` R19, R20). -/
structure Buffers where
  /-- `TXBUF` -/
  tx    : Memory
  /-- `TXLEN`; the spec gives it no width (log 24) -/
  txlen : Nat
  /-- `RXBUF` -/
  rx    : Memory
  /-- `RXLEN`; the spec gives it no width (log 24) -/
  rxlen : Nat
  /-- MODEL: the frame in `TXBUF` is an ENCODE's, which the host may read (`10_state.md` R19, R30; log 21). -/
  txEncoded : Bool
deriving DecidableEq, Repr

/-- `TXN_STATE` (`10_state.md` R22). -/
inductive TxnState where
  | idle
  | sent
  | awaitingResponse
  | decoded
  | timedOut
  | malformed
  | ioFailed
deriving DecidableEq, Repr, Inhabited

/-- What a command completes with: a result kind with its information (`60_exceptions.md` R126), one name per command
where the kind is `OK`. -/
inductive Result where
  | okEncode
  | okDecode (st : StatusPacket)
  | okRead (value : Word32)
  | okWrite
  | frameError (cause : Cause)
  | timeout
  | motorError (code : Byte)
  | unexpectedId (id : Byte)
  | widthMismatch
  | ioError
deriving DecidableEq, Repr

/-- MODEL: what a transaction in progress does next, one value per step of `00_scope.md` R8 after acceptance: a transport request
or the completion (log 19). -/
inductive Phase where
  /-- no transaction in progress -/
  | rest
  /-- the frame is built; `TxWrite` comes next -/
  | write
  /-- `TxWrite` has answered `Ok`: a broadcast write completes next, else the hunt's first read comes next -/
  | sent
  /-- a read of one byte comes next: the header has not been found -/
  | huntNext
  /-- the read of the fixed bytes after the header comes next -/
  | afterHeader
  /-- the read of LEN bytes comes next; `p` holds the fixed bytes -/
  | body (p : List Byte)
  /-- the result is delivered next -/
  | deliver (r : Result)
deriving DecidableEq, Repr

/-- The sequencer (`10_state.md` R22, R23; `44_transaction_engine.md` R111 for the deadline). -/
structure Sequencer where
  /-- `TXN_STATE` -/
  txn       : TxnState
  /-- `RESYNC_CNT` -/
  resyncCnt : Nat
  /-- `HUNT` -/
  hunt      : List Byte
  /-- `REQ_ID` -/
  reqId     : Byte
  /-- `REQ_W` -/
  reqW      : BitVec 3
  /-- the deadline of the transaction's reads -/
  deadline  : Timeout
  /-- MODEL: see `Phase`. -/
  phase     : Phase
deriving DecidableEq, Repr

/-- The handshake flags (`10_state.md` R24). -/
structure Flags where
  /-- `BUSY` -/
  busy : Bool
  /-- `DONE` -/
  done : Bool
deriving DecidableEq, Repr

/-- The unit accumulators (`10_state.md` R25; log 9). -/
structure Accs where
  /-- `CHK8` -/
  chk8  : Byte
  /-- `CRC16` -/
  crc16 : Word16
  /-- `FFCNT` -/
  ffcnt : BitVec 2
deriving DecidableEq, Repr

/-- The answer of the transport to `TxWrite` (`20_memory.md` R38). -/
inductive TxAnswer where
  | ok
  | ioError
deriving DecidableEq, Repr

/-- The answer of the transport to `RxRead` (`20_memory.md` R39). -/
inductive RxAnswer where
  | bytes (s : List Byte)
  | timeout
  | ioError
deriving DecidableEq, Repr

/-- A planned answer to a `TxWrite`; an `IoError` may have put any first part of the frame on the line (log 11). -/
inductive TxPlan where
  | ok
  | ioError (sent : Nat)
deriving DecidableEq, Repr

/-- A planned answer to an `RxRead`: the bytes if enough are unread, or a failure after which any number of the unread
bytes is lost (`20_memory.md` R39; log 10). -/
inductive RxVerdict where
  | ok
  | timeout (lost : Nat)
  | ioError (lost : Nat)
deriving DecidableEq, Repr

/-- The bytes that arrive before an `RxRead` is answered, and the planned answer. -/
structure RxPlan where
  arrived : List Byte
  verdict : RxVerdict
deriving DecidableEq, Repr

/-- One transport request and its answer (`10_state.md` R30: all the transport sees is the bytes passed to `TxWrite`, the
counts passed to `RxRead`, and the deadline). -/
inductive Exchange where
  | txWrite (frame : List Byte) (answer : TxAnswer)
  | rxRead (n : Nat) (deadline : Timeout) (answer : RxAnswer)
deriving DecidableEq, Repr

/-- The transport oracle as plain data (`10_state.md` R26; `93_implementation_defined.md` U5, U6; log 10). -/
structure Transport where
  /-- the unread bytes, oldest first (`10_state.md` R26) -/
  unread   : List Byte
  /-- the TX stream, in order (`20_memory.md` R32) -/
  txStream : List Byte
  /-- MODEL: the answers to the coming writes; when none is left, `Ok` -/
  txPlan   : List TxPlan
  /-- MODEL: the answers to the coming reads; when none is left, the bytes if enough are unread, else `Timeout`, none lost -/
  rxPlan   : List RxPlan
  /-- MODEL: every request made, with its answer, oldest first -/
  log      : List Exchange
deriving DecidableEq, Repr

/-- An operand write of the host (`10_state.md` R30). -/
inductive PortWrite where
  | cmd (code : BitVec 3)
  | id (v : Byte)
  | opcode (v : Byte)
  | addr (v : Word16)
  | regw (v : BitVec 3)
  | access (v : Access)
  | reqw (v : BitVec 3)
  | value (v : Word32)
  | plen (v : Len)
  | pbuf (i : Nat) (bs : List Byte)
  | rxlen (v : Nat)
  | rxbuf (i : Nat) (bs : List Byte)
deriving DecidableEq, Repr

/-- What the host can read (`10_state.md` R30). -/
inductive HostReg where
  | busy
  | done
  | kind
  | cause
  | id
  | instr
  | err
  | value
  | plen
  | params (i : Nat)
  | txlen
  | txbuf (i : Nat)
deriving DecidableEq, Repr

/-- MODEL: an act of the host that does not wait for `DONE` (log 2). -/
inductive HostAct where
  /-- an operand write; refused while a command is in progress (`10_state.md` R31) -/
  | write (w : PortWrite)
  /-- a read of the port -/
  | read (r : HostReg)
  /-- an offer of the command in `CMD`; refused while one is in progress (`44_transaction_engine.md` R101) -/
  | offer
deriving DecidableEq, Repr

/-- MODEL: what the outside world does next. All but `now` and `wait` happen between commands: while a transaction is in
progress the host waits for `DONE` (`70_reset_and_hazards.md` R149; log 2). -/
inductive Event where
  /-- the host writes an operand register or buffer -/
  | write (w : PortWrite)
  /-- the host reads -/
  | read (r : HostReg)
  /-- bytes arrive on the line and wait, unread, in the transport (`60_exceptions.md` R136) -/
  | arrive (bs : List Byte)
  /-- the host offers the command whose code stands in `CMD`; it runs to its completion (log 1) -/
  | offer
  /-- the same offer, taken by the block in the single steps of `00_scope.md` R8 (log 1) -/
  | offerStepwise
  /-- the host makes the call a frame row stands for (log 12) -/
  | frame (side : Side) (bytes : List Byte)
  /-- the host acts at once, a command in progress or not -/
  | now (a : HostAct)
  /-- the host lets the block take one step -/
  | wait
deriving DecidableEq, Repr

/-- MODEL: the outside world: what it does next, oldest first, and what the host has read. -/
structure World where
  script : List Event
  seen   : List (HostReg × Word32)
deriving DecidableEq, Repr

/-- The whole state (`10_state.md` R13, R26). -/
structure State where
  /-- `CFG` -/
  cfg       : Cfg
  ops       : Operands
  res       : Results
  bufs      : Buffers
  seq       : Sequencer
  flags     : Flags
  accs      : Accs
  transport : Transport
  world     : World
  /-- MODEL: the number of the next delivery, with which free values are drawn (log 8) -/
  free      : Nat
deriving DecidableEq, Repr

/-- Why the machine stops with a fault. -/
inductive Fault where
  /-- Raised by a host read (`hostRead`) of a result register, or of `TXBUF` or `TXLEN`, that holds no specified value for the
  host (`10_state.md` R17, R29, R30; `93_implementation_defined.md` U8; `92_eei_decisions.md` D31). No instruction raises it.
  Safe: the spec asks that such a read never gives a value. -/
  | unspecifiedRead (r : HostReg)
deriving DecidableEq, Repr

/-- Why an offer or a host act has no meaning. -/
inductive Refusal where
  /-- Raised by `exec`'s arms of instructions with no meaning yet; none is left. Safe. -/
  | notModelled (mnemonic : String)
  /-- Raised by a command offered while one is in progress (`44_transaction_engine.md` R101). Safe. -/
  | busy
  /-- Raised by a host write while a command is in progress (`10_state.md` R31). Safe. -/
  | hostWriteWhileBusy
  /-- Raised by `step` for an offered `CMD` code that is no command (`30_encoding.md` R60). Safe. -/
  | notACommand (code : BitVec 3)
  /-- Raised by the encode commands and frame rows outside the encoder's domain (`41_codec_v1.md` R75; `42_codec_v2.md`
  R85). Safe. -/
  | encodeDomain
  /-- Raised by READ_DATA and WRITE_DATA in v1 with `OP_ADDR >= 256` (`43_register_descriptor.md` R97). Safe. -/
  | addressTooWide
  /-- Raised by an instruction-frame row of the other protocol version (`00_scope.md` R7; log 13). Safe. -/
  | foreignVersion
  /-- Raised by `step` for transmit-side bytes that are no frame the block builds (`30_encoding.md` R59; log 14). Safe. -/
  | undecodable (cause : Cause)
deriving DecidableEq, Repr

/-- The operand registers at reset. DESIGN CHOICE (log 4): the spec leaves them unspecified (`10_state.md` R29). -/
def Operands.reset : Operands where
  cmd := 0
  id := 0
  opcode := 0
  addr := 0
  regw := 0
  access := .readOnly
  reqw := 0
  value := 0
  plen := 0
  pbuf := []

/-- The result registers at reset. DESIGN CHOICE (log 5): the spec leaves them unspecified (`10_state.md` R29); none is
marked as specified. -/
def Results.reset : Results where
  kind := .ok
  cause := .header
  id := 0
  instr := 0
  err := 0
  value := 0
  plen := 0
  params := []
  specified := []

/-- The frame buffers at reset. DESIGN CHOICE (log 6): the spec leaves them unspecified (`10_state.md` R29). -/
def Buffers.reset : Buffers where
  tx := []
  txlen := 0
  rx := []
  rxlen := 0
  txEncoded := false

/-- The sequencer at reset: `Idle` (`10_state.md` R29). DESIGN CHOICE (log 7): the phase counters are unspecified there. -/
def Sequencer.reset (v : Version) : Sequencer where
  txn := .idle
  resyncCnt := 0
  hunt := List.replicate (headerLen v) 0
  reqId := 0
  reqW := 0
  deadline := ⟨0⟩
  phase := .rest

/-- A transport with nothing on the line and nothing planned (log 10). -/
def Transport.quiet : Transport where
  unread := []
  txStream := []
  txPlan := []
  rxPlan := []
  log := []

/-- Reset is the construction of an instance from a configuration and a transport, with no transport request
(`70_reset_and_hazards.md` R146; `10_state.md` R29). -/
def State.construct (cfg : Cfg) (t : Transport) : State where
  cfg := cfg
  ops := .reset
  res := .reset
  bufs := .reset
  seq := .reset cfg.version
  flags := { busy := false, done := false }
  accs := { chk8 := 0, crc16 := 0, ffcnt := 0 }
  transport := t
  world := { script := [], seen := [] }
  free := 0

/-- The machine right after reset, constructed with `Config.default` on a quiet transport (log 3, log 10). -/
def State.reset : State := State.construct Config.default Transport.quiet

end Sys2Proof.Machine
end

