-- ==== Sys2Proof/Machine/Flags.lean ====
section
/-!
DEFINITION. The handshake flags `BUSY` and `DONE` (`10_state.md` R24), which alone a command writes as flags, and the
accumulators of the check and stuffing units (R25; log 9).
-/
namespace Sys2Proof.Machine

/-- The flags while a command is in progress: accepting sets `BUSY`, clears `DONE` (`44_transaction_engine.md` R101). -/
def Flags.accepted : Flags := { busy := true, done := false }

/-- The flags when a command has completed (`60_exceptions.md` R133 step 4). -/
def Flags.completed : Flags := { busy := false, done := true }

end Sys2Proof.Machine
end

