-- ==== Sys2Proof/Machine/Operands.lean ====
section
/-!
DEFINITION. What the commands read from the operand registers (`10_state.md` R15, R16; `43_register_descriptor.md`), and
the operand loads of the calls the frame rows stand for (log 12).
-/
namespace Sys2Proof.Machine

/-- `PBUF[0..PLEN)`, the parameters of ENCODE (`10_state.md` R16). -/
def Operands.params (o : Operands) : List Byte := memRead o.pbuf 0 o.plen.toNat

/-- A legal descriptor width: 1, 2 or 4 (`43_register_descriptor.md` R92). -/
def legalWidth (w : BitVec 3) : Bool := w == 1 || w == 2 || w == 4

/-- `WIDTH_CHECK` of READ_DATA (`43_register_descriptor.md` R95). -/
def widthCheckRead (o : Operands) : Bool := legalWidth o.regw && o.reqw == o.regw

/-- `WIDTH_CHECK` of WRITE_DATA: the value must fit the width as well (R95). -/
def widthCheckWrite (o : Operands) : Bool :=
  widthCheckRead o && decide (o.value.toNat < 2 ^ (8 * o.regw.toNat))

/-- The address fits the version's address field: below 256 in v1 (R97). -/
def addressFits (v : Version) (o : Operands) : Bool :=
  match v with
  | .v1 => decide (o.addr.toNat < 256)
  | .v2 => true

/-- `READ_PARAMS` (R98). -/
def readParams (v : Version) (o : Operands) : List Byte :=
  match v with
  | .v1 => [lo8 o.addr, o.regw.setWidth 8]
  | .v2 => [lo8 o.addr, hi8 o.addr, o.regw.setWidth 8, 0x00]

/-- `WRITE_PARAMS` (R99). -/
def writeParams (v : Version) (o : Operands) : List Byte :=
  match v with
  | .v1 => lo8 o.addr :: leBytes o.value o.regw.toNat
  | .v2 => lo8 o.addr :: hi8 o.addr :: leBytes o.value o.regw.toNat

/-- The operands of the call `encode_instruction(id, opcode, params)`. -/
def Operands.loadEncode (o : Operands) (id opcode : Byte) (params : List Byte) : Operands :=
  { o with
    id := id
    opcode := opcode
    plen := BitVec.ofNat 17 params.length
    pbuf := memWrite o.pbuf 0 params }

/-- The operands of the call `read_data(id, descriptor)`, the requested width being the descriptor's. -/
def Operands.loadRead (o : Operands) (id : Byte) (addr : Word16) (w : Width) : Operands :=
  { o with id := id, addr := addr, regw := widthCode w, reqw := widthCode w }

/-- The operands of the call `write_data(id, descriptor, value)`, the supplied width being the descriptor's. -/
def Operands.loadWrite (o : Operands) (id : Byte) (addr : Word16) (w : Width) (value : Word32) : Operands :=
  { o with id := id, addr := addr, regw := widthCode w, reqw := widthCode w, value := value }

end Sys2Proof.Machine
end

