-- ==== Sys2Proof/Machine/Ops.lean ====
section
/-!
DEFINITION. The operations the commands share: accepting a command (`44_transaction_engine.md` R101), the two transport
primitives (`20_memory.md` R38, R39), storing a frame, and the one operation by which every command delivers its result and
the block is ready again (`60_exceptions.md` R133, R135): what stands for taking an exception and returning from it.
-/
namespace Sys2Proof.Machine

/-- The outcomes of a step. -/
abbrev Out := Host.Outcome State Fault Refusal

/-- `TXN_STATE <- t`. -/
def State.setTxn (s : State) (t : TxnState) : State := { s with seq := { s.seq with txn := t } }

/-- The sequencer's next act. -/
def State.setPhase (s : State) (p : Phase) : State := { s with seq := { s.seq with phase := p } }

/-- `CMD <- code`. -/
def State.setCmd (s : State) (code : BitVec 3) : State := { s with ops := { s.ops with cmd := code } }

/-- A command is accepted only when the instance is idle (R101). -/
def State.ready (s : State) : Bool := !s.flags.busy && decide (s.seq.txn = .idle)

/-- Accepting sets `BUSY`, clears `DONE` (R101). -/
def State.accept (s : State) : State := { s with flags := .accepted }

/-- Offer a command: `k` runs it from the state in which it has been accepted; refused while one is in progress (R101). -/
def offer (s : State) (k : State → Out) : Out :=
  if s.ready then k s.accept else .refused .busy

/-! ### Delivery of a result -/

/-- `RES_KIND` of a result (`60_exceptions.md` R126). -/
def Result.kind : Result → ResKind
  | .okEncode => .ok
  | .okDecode _ => .ok
  | .okRead _ => .ok
  | .okWrite => .ok
  | .frameError _ => .frameError
  | .timeout => .timeout
  | .motorError _ => .motorError
  | .unexpectedId _ => .unexpectedId
  | .widthMismatch => .widthMismatch
  | .ioError => .ioError

/-- The result registers with a kind and nothing else specified: "the others become unspecified" (R133 step 2), free
values of the delivery's number (log 8). -/
def kindOnly (n : Nat) (k : ResKind) : Results where
  kind := k
  cause := Config.freeCause n
  id := Config.freeId n
  instr := Config.freeInstr n
  err := Config.freeErr n
  value := Config.freeValue n
  plen := Config.freePlen n
  params := memWrite [] 0 (Config.freeParams n)
  specified := [.kind]

/-- The result registers after DECODE with `OK` (`44_transaction_engine.md` R103; `10_state.md` R17). DESIGN CHOICE (log 26):
the bytes of `RES_PARAMS` at and above `RES_PLEN`, to which the spec gives no meaning, are 0, whatever they held before. -/
def decodedResults (n : Nat) (st : StatusPacket) : Results :=
  { kindOnly n .ok with
    id := st.id
    instr := st.instr.getD (Config.freeInstr n)
    err := st.error
    plen := BitVec.ofNat 17 st.params.length
    params := memWrite [] 0 st.params
    specified := if st.instr.isSome then [.kind, .id, .instr, .err, .params] else [.kind, .id, .err, .params] }

/-- The result registers after a delivery: the kind, and the information registers R126 names for it. -/
def resultRegs (n : Nat) : Result → Results
  | .okEncode => kindOnly n .ok
  | .okDecode st => decodedResults n st
  | .okRead v => { kindOnly n .ok with value := v, specified := [.kind, .value] }
  | .okWrite => kindOnly n .ok
  | .frameError c => { kindOnly n .frameError with cause := c, specified := [.kind, .cause] }
  | .timeout => kindOnly n .timeout
  | .motorError e => { kindOnly n .motorError with err := e, specified := [.kind, .err] }
  | .unexpectedId i => { kindOnly n .unexpectedId with id := i, specified := [.kind, .id] }
  | .widthMismatch => kindOnly n .widthMismatch
  | .ioError => kindOnly n .ioError

/-- Deliver a result (R133): the result registers, `TXN_STATE <- Idle`, `BUSY <- 0`, `DONE <- 1`. After it the instance
accepts the next command (R135). -/
def deliver (r : Result) (s : State) : State :=
  { s with
    res := resultRegs s.free r
    seq := { s.seq with txn := .idle, phase := .rest }
    flags := .completed
    free := s.free + 1 }

/-! ### Frames and units -/

/-- `TXBUF <- f ; TXLEN <- len(f)` (`44_transaction_engine.md` R102, R104, R105). The bytes of `TXBUF` at and above the new
`TXLEN` keep what they held: for ENCODE by R102's `MemWrite`, for READ_DATA and WRITE_DATA a DESIGN CHOICE (log 28). The frame is
not the host's to read unless ENCODE gives it out (`10_state.md` R30). -/
def State.storeTx (s : State) (f : List Byte) : State :=
  { s with bufs := { s.bufs with tx := memWrite s.bufs.tx 0 f, txlen := f.length, txEncoded := false } }

/-- The frame in `TXBUF` is handed to the host: ENCODE's output (`10_state.md` R19, R30; `44_transaction_engine.md` R102). -/
def State.giveTx (s : State) : State := { s with bufs := { s.bufs with txEncoded := true } }

/-- `RXBUF <- f ; RXLEN <- len(f)` (R106). DESIGN CHOICE (log 28): the bytes of `RXBUF` at and above the new `RXLEN` keep
what they held. -/
def State.storeRx (s : State) (f : List Byte) : State :=
  { s with bufs := { s.bufs with rx := memWrite s.bufs.rx 0 f, rxlen := f.length } }

/-- `TXBUF[0..TXLEN)`. -/
def State.txFrame (s : State) : List Byte := memRead s.bufs.tx 0 s.bufs.txlen

/-- `RXBUF[0..RXLEN)`. -/
def State.rxFrame (s : State) : List Byte := memRead s.bufs.rx 0 s.bufs.rxlen

/-- `RES_PARAMS[0..RES_PLEN)`. -/
def State.resParams (s : State) : List Byte := memRead s.res.params 0 s.res.plen.toNat

/-- The accumulators after the active encoder has built a frame (`10_state.md` R25; log 9). -/
def encAccs (cfg : Cfg) (id opcode : Byte) (params : List Byte) (a : Accs) : Accs :=
  match cfg.version with
  | .v1 => { a with chk8 := chkSum (bodyV1 id opcode params) }
  | .v2 => { a with
      ffcnt := stuffCount 0 params
      crc16 := crcV2 (crcCovered cfg.crcSpan markV2 (bodyV2 id opcode (stuff params))) }

/-- The accumulators after the active decoder has read `b`: a unit is used only if the checks before it pass
(`10_state.md` R25; `41_codec_v1.md` R77; `42_codec_v2.md` R87; log 9). -/
def decAccs (cfg : Cfg) (b : List Byte) (a : Accs) : Accs :=
  match cfg.version, decFrame cfg.version cfg.crcSpan b with
  | _, .error .header => a
  | _, .error .length => a
  | .v1, _ => { a with chk8 := chkSum (slice b 2 (b.length - 1)) }
  | .v2, .error .check => { a with crc16 := crcV2 (spanOf cfg.crcSpan b) }
  | .v2, _ => { a with
      crc16 := crcV2 (spanOf cfg.crcSpan b)
      ffcnt := unstuffCount 0 (slice b 8 (b.length - 2)) }

/-- Build the frame `ENC(id, opcode, params)` in `TXBUF`. -/
def State.buildFrame (s : State) (id opcode : Byte) (params : List Byte) : State :=
  ({ s with accs := encAccs s.cfg id opcode params s.accs } : State).storeTx
    (encFrame s.cfg.version s.cfg.crcSpan id opcode params)

/-- `DEC(RXBUF[0..RXLEN))`. -/
def State.decodeRx (s : State) : Except Cause StatusPacket × State :=
  (decFrame s.cfg.version s.cfg.crcSpan s.rxFrame, { s with accs := decAccs s.cfg s.rxFrame s.accs })

/-! ### The transport primitives -/

/-- The transport's part of `TxWrite(f)` (`20_memory.md` R38; log 10, log 11). -/
def Transport.write (t : Transport) (f : List Byte) : TxAnswer × Transport :=
  match t.txPlan.headD .ok with
  | .ok =>
    (.ok, { t with
      txStream := t.txStream ++ f
      txPlan := t.txPlan.tail
      log := t.log ++ [.txWrite f .ok] })
  | .ioError k =>
    (.ioError, { t with
      txStream := t.txStream ++ f.take k
      txPlan := t.txPlan.tail
      log := t.log ++ [.txWrite f .ioError] })

/-- What the transport does with the next read when nothing is planned for it. -/
def RxPlan.unplanned : RxPlan := { arrived := [], verdict := .ok }

/-- The answer to a read of `n` bytes and the bytes that stay unread (`20_memory.md` R39; log 10). -/
def rxAnswer (n : Nat) (verdict : RxVerdict) (avail : List Byte) : RxAnswer × List Byte :=
  match verdict with
  | .ok => if n ≤ avail.length then (.bytes (avail.take n), avail.drop n) else (.timeout, avail)
  | .timeout k => (.timeout, avail.drop k)
  | .ioError k => (.ioError, avail.drop k)

/-- The transport's part of `RxRead(n)` under a deadline (`20_memory.md` R39; `44_transaction_engine.md` R111). -/
def Transport.read (t : Transport) (n : Nat) (deadline : Timeout) : RxAnswer × Transport :=
  let plan := t.rxPlan.headD .unplanned
  let a := rxAnswer n plan.verdict (t.unread ++ plan.arrived)
  (a.1, { t with
    unread := a.2
    rxPlan := t.rxPlan.tail
    log := t.log ++ [.rxRead n deadline a.1] })

/-- `TxWrite(f)`. -/
def State.txWrite (s : State) (f : List Byte) : TxAnswer × State :=
  ((s.transport.write f).1, { s with transport := (s.transport.write f).2 })

/-- `RxRead(n)` under the transaction's deadline. -/
def State.rxRead (s : State) (n : Nat) : RxAnswer × State :=
  ((s.transport.read n s.seq.deadline).1, { s with transport := (s.transport.read n s.seq.deadline).2 })

end Sys2Proof.Machine
end

