-- ==== Sys2Proof/Machine/Receive.lean ====
section
/-!
DEFINITION. RECEIVE (`44_transaction_engine.md` R106): taking one status frame from the RX stream, in its three phases; and
the classification of what came (R107), with the terminal state it ends in (R108).
-/
namespace Sys2Proof.Machine

/-- What RECEIVE returns (R106). -/
inductive Received where
  | ok (st : StatusPacket)
  | err (cause : Cause)
  | timeout
  | ioError
deriving DecidableEq, Repr

/-- The two commands that make a transaction. -/
inductive Transaction where
  | read
  | write
deriving DecidableEq, Repr

/-- LEN, from the fixed bytes after the header: `p[1]` in v1, `p[1] | (p[2] << 8)` in v2 (R106). -/
def lenField (v : Version) (p : List Byte) : Nat :=
  match v with
  | .v1 => (byteAt p 1).toNat
  | .v2 => (word16 (byteAt p 1) (byteAt p 2)).toNat

/-- The deadline of every read of one transaction is fixed when RECEIVE starts (R111). -/
def State.startReceive (s : State) : State :=
  { s with seq := { s.seq with txn := .awaitingResponse, deadline := s.cfg.timeout } }

/-- `HUNT <- w ; RESYNC_CNT <- 0`. -/
def State.openHunt (s : State) (w : List Byte) : State :=
  { s with seq := { s.seq with hunt := w, resyncCnt := 0 } }

/-- Drop the oldest byte of the window, take `d` in: one stray byte discarded. -/
def State.slideHunt (s : State) (d : List Byte) : State :=
  { s with seq := { s.seq with hunt := s.seq.hunt.drop 1 ++ d, resyncCnt := s.seq.resyncCnt + 1 } }

/-- The window holds the header. -/
def State.headerFound (s : State) : Bool := decide (s.seq.hunt = mark s.cfg.version)

/-- Phase 1: slide the window until it holds the header; `left` is what the resync window still allows. `none` says the
header has been found. -/
def hunt : Nat → State → Option Received × State
  | left, s =>
    if s.headerFound then (none, s)
    else
      match left with
      | 0 => (some (.err .header), s)
      | left + 1 =>
        match s.rxRead 1 with
        | (.bytes d, s) => hunt left (s.slideHunt d)
        | (.timeout, s) => (some .timeout, s)
        | (.ioError, s) => (some .ioError, s)

/-- The assembled frame is stored and decoded. -/
def takeFrame (s : State) (p body : List Byte) : Received × State :=
  match (s.storeRx (mark s.cfg.version ++ p ++ body)).decodeRx with
  | (.ok st, s) => (.ok st, s)
  | (.error c, s) => (.err c, s)

/-- Phase 3: the rest of the frame, LEN bytes. -/
def receiveBody (p : List Byte) (s : State) : Received × State :=
  match s.rxRead (lenField s.cfg.version p) with
  | (.bytes body, s) => takeFrame s p body
  | (.timeout, s) => (.timeout, s)
  | (.ioError, s) => (.ioError, s)

/-- Phase 2: the fixed bytes; a LEN below the minimum ends RECEIVE, nothing more is read. -/
def receivePrefix (s : State) : Received × State :=
  match s.rxRead (prefixLen s.cfg.version) with
  | (.bytes p, s) =>
    if lenField s.cfg.version p < minStatusLen s.cfg.version then (.err .length, s) else receiveBody p s
  | (.timeout, s) => (.timeout, s)
  | (.ioError, s) => (.ioError, s)

/-- `RECEIVE()` (R106), from a state in which the deadline is fixed. -/
def receive (s : State) : Received × State :=
  match s.rxRead (headerLen s.cfg.version) with
  | (.bytes w, s) =>
    match hunt s.cfg.resyncWindow (s.openHunt w) with
    | (some r, s) => (r, s)
    | (none, s) => receivePrefix s
  | (.timeout, s) => (.timeout, s)
  | (.ioError, s) => (.ioError, s)

/-- The tests on a decoded response, in order (R107): the ID, the error field, and for a read the parameter count. The
second component is the terminal state (R108). -/
def classify (k : Transaction) (q : Sequencer) (st : StatusPacket) : Result × TxnState :=
  if st.id ≠ q.reqId then (.unexpectedId st.id, .decoded)
  else if st.error ≠ 0 then (.motorError st.error, .decoded)
  else
    match k with
    | .read =>
      if st.params.length ≠ q.reqW.toNat then (.frameError .length, .malformed) else (.okRead (leValue st.params), .decoded)
    | .write => (.okWrite, .decoded)

/-- The result and terminal state for what RECEIVE returned (`44_transaction_engine.md` R104, R105, R108). -/
def conclude (k : Transaction) (q : Sequencer) : Received → Result × TxnState
  | .ok st => classify k q st
  | .err c => (.frameError c, .malformed)
  | .timeout => (.timeout, .timedOut)
  | .ioError => (.ioError, .ioFailed)

/-- Enter the terminal state and deliver the result (R108, R110). -/
def finish (r : Result × TxnState) (s : State) : State := deliver r.1 (s.setTxn r.2)

/-- The response half of a transaction: RECEIVE, then the result. -/
def awaitResponse (k : Transaction) (s : State) : State :=
  finish (conclude k (receive s.startReceive).2.seq (receive s.startReceive).1) (receive s.startReceive).2

end Sys2Proof.Machine
end

