-- ==== Sys2Proof/Machine/Commands.lean ====
section
/-!
DEFINITION. The meanings of the four commands (`44_transaction_engine.md` R102 to R105). Each is offered, so refused while
another is in progress (R101), and runs to its completion (log 1).
-/
namespace Sys2Proof.Machine

/-- ENCODE on an accepted state (R102). -/
def encodeBody (s : State) : Out :=
  if inDomain s.cfg.version s.ops.params then
    .next (deliver .okEncode (s.buildFrame s.ops.id s.ops.opcode s.ops.params).giveTx)
  else .refused .encodeDomain

/-- DECODE on an accepted state (R103). A non-zero error field is data (R73). -/
def decodeBody (s : State) : Out :=
  match s.decodeRx with
  | (.ok st, s) => .next (deliver (.okDecode st) s)
  | (.error c, s) => .next (deliver (.frameError c) s)

/-- Latch what the response is compared with (`10_state.md` R23): `REQ_ID`, and for a read `REQ_W` (R104). -/
def State.latchRequest (s : State) (k : Transaction) : State :=
  match k with
  | .read => { s with seq := { s.seq with reqId := s.ops.id, reqW := s.ops.regw } }
  | .write => { s with seq := { s.seq with reqId := s.ops.id } }

/-- The `CMD` code of a transaction (`30_encoding.md` R60). -/
def Transaction.code : Transaction → BitVec 3
  | .read => 3
  | .write => 4

/-- The opcode and parameters a transaction sends (R104, R105; `30_encoding.md` R56). -/
def requestOpcode : Transaction → Byte
  | .read => opRead
  | .write => opWrite

/-- `READ_PARAMS` or `WRITE_PARAMS`. -/
def requestParams (k : Transaction) (s : State) : List Byte :=
  match k with
  | .read => readParams s.cfg.version s.ops
  | .write => writeParams s.cfg.version s.ops

/-- `WIDTH_CHECK` of the command (`43_register_descriptor.md` R95). -/
def widthCheck : Transaction → Operands → Bool
  | .read => widthCheckRead
  | .write => widthCheckWrite

/-- A broadcast write: no response is awaited (R112). A broadcast read has no special case (R113). -/
def State.isBroadcast (s : State) (k : Transaction) : Bool :=
  match k with
  | .read => false
  | .write => s.ops.id == s.cfg.broadcastId

/-- The request is latched and its frame built (R104, R105). -/
def State.prepare (s : State) (k : Transaction) : State :=
  (s.latchRequest k).buildFrame s.ops.id (requestOpcode k) (requestParams k s)

/-- From the frame built in `TXBUF`: `TxWrite`, then, but for a broadcast write, the response (R104, R105). -/
def transact (k : Transaction) (s : State) : State :=
  match s.txWrite s.txFrame with
  | (.ioError, s) => finish (.ioError, .ioFailed) s
  | (.ok, s) => if s.isBroadcast k then deliver .okWrite (s.setTxn .sent) else awaitResponse k (s.setTxn .sent)

/-- READ_DATA or WRITE_DATA on an accepted state: the width check first, without touching the transport (R95, R118); an
address that v1 cannot carry is refused (R97; log 16). -/
def transactionBody (k : Transaction) (s : State) : Out :=
  if !widthCheck k s.ops then .next (deliver .widthMismatch s)
  else if !addressFits s.cfg.version s.ops then .refused .addressTooWide
  else .next (transact k (s.prepare k))

/-- `ENCODE` (R102). -/
def execEncode (s : State) : Out := offer (s.setCmd 1) encodeBody

/-- `DECODE` (R103). -/
def execDecode (s : State) : Out := offer (s.setCmd 2) decodeBody

/-- `READ_DATA` (R104). -/
def execReadData (s : State) : Out := offer (s.setCmd 3) (transactionBody .read)

/-- `WRITE_DATA` (R105). -/
def execWriteData (s : State) : Out := offer (s.setCmd 4) (transactionBody .write)

end Sys2Proof.Machine
end

