-- ==== Sys2Proof/Machine/Frames.lean ====
section
/-!
DEFINITION. The meanings of the twelve frame rows: each is the call its row's rule describes, with the operands its frame
carries (log 12). An instruction frame is built and sent only by an instance of its own version (`00_scope.md` R7; log 13); a
status frame is given to the instance's decoder, whatever its version (`70_reset_and_hazards.md` R148).
-/
namespace Sys2Proof.Machine

/-- Replace the operand registers: the host's writes before the offer, refused while a command is in progress
(`10_state.md` R31). -/
def State.withOps (s : State) (o : Operands) : State := { s with ops := o }

/-- Run `k` in an instance of version `v` that is idle. -/
def onlyIn (v : Version) (s : State) (k : Out) : Out :=
  if s.ready then (if s.cfg.version = v then k else .refused .foreignVersion) else .refused .busy

/-- The call `encode_instruction(id, opcode, params)` in an instance of version `v` (`41_codec_v1.md` R74, `42_codec_v2.md`
R84). -/
def encodeCall (v : Version) (id opcode : Byte) (params : List Byte) (s : State) : Out :=
  onlyIn v s (if inDomain v params then execEncode (s.withOps (s.ops.loadEncode id opcode params)) else .refused .encodeDomain)

/-- The call `decode_status(bytes)` on the frame `b` (`41_codec_v1.md` R77, `42_codec_v2.md` R87). -/
def decodeCall (b : List Byte) (s : State) : Out :=
  if s.ready then execDecode (s.storeRx b) else .refused .busy

/-- The call `read_data(id, descriptor)` in an instance of version `v` (`44_transaction_engine.md` R104). -/
def readCall (v : Version) (id : Byte) (addr : Word16) (w : Width) (s : State) : Out :=
  onlyIn v s (execReadData (s.withOps (s.ops.loadRead id addr w)))

/-- The call `write_data(id, descriptor, value)` in an instance of version `v` (R105). -/
def writeCall (v : Version) (id : Byte) (addr : Word16) (w : Width) (value : Word32) (s : State) : Out :=
  onlyIn v s (execWriteData (s.withOps (s.ops.loadWrite id addr w value)))

/-- `V1.INSTRUCTION` (`41_codec_v1.md` R74). -/
def execV1Instruction (id opcode : Byte) (params : List Byte) (s : State) : Out := encodeCall .v1 id opcode params s

/-- `V1.STATUS` (`41_codec_v1.md` R76, R77). -/
def execV1Status (id error : Byte) (params : List Byte) (s : State) : Out :=
  if inDomainV1 params then decodeCall (encsV1 id error params) s else .refused .encodeDomain

/-- `V2.INSTRUCTION` (`42_codec_v2.md` R84). -/
def execV2Instruction (id opcode : Byte) (params : List Byte) (s : State) : Out := encodeCall .v2 id opcode params s

/-- `V2.STATUS` (`42_codec_v2.md` R86, R87): `instr` is any byte, it is not checked. -/
def execV2Status (id instr error : Byte) (params : List Byte) (s : State) : Out :=
  if inDomainV2 (error :: params) then decodeCall (encV2 s.cfg.crcSpan id instr (error :: params)) s
  else .refused .encodeDomain

/-- `READ.V1` (`44_transaction_engine.md` R104; `43_register_descriptor.md` R98). -/
def execReadV1 (id addr : Byte) (w : Width) (s : State) : Out := readCall .v1 id (addr.setWidth 16) w s

/-- `READ.V2` (R104, R98). -/
def execReadV2 (id : Byte) (addr : Word16) (w : Width) (s : State) : Out := readCall .v2 id addr w s

/-- `WRITE.V1.W1` (`44_transaction_engine.md` R105; `43_register_descriptor.md` R99). -/
def execWriteV1W1 (id addr : Byte) (value : Byte) (s : State) : Out :=
  writeCall .v1 id (addr.setWidth 16) .w1 (value.setWidth 32) s

/-- `WRITE.V1.W2` (R105, R99). -/
def execWriteV1W2 (id addr : Byte) (value : Word16) (s : State) : Out :=
  writeCall .v1 id (addr.setWidth 16) .w2 (value.setWidth 32) s

/-- `WRITE.V1.W4` (R105, R99). -/
def execWriteV1W4 (id addr : Byte) (value : Word32) (s : State) : Out :=
  writeCall .v1 id (addr.setWidth 16) .w4 value s

/-- `WRITE.V2.W1` (R105, R99). -/
def execWriteV2W1 (id : Byte) (addr : Word16) (value : Byte) (s : State) : Out :=
  writeCall .v2 id addr .w1 (value.setWidth 32) s

/-- `WRITE.V2.W2` (R105, R99). -/
def execWriteV2W2 (id : Byte) (addr : Word16) (value : Word16) (s : State) : Out :=
  writeCall .v2 id addr .w2 (value.setWidth 32) s

/-- `WRITE.V2.W4` (R105, R99). -/
def execWriteV2W4 (id : Byte) (addr : Word16) (value : Word32) (s : State) : Out :=
  writeCall .v2 id addr .w4 value s

end Sys2Proof.Machine
end

