-- ==== Sys2Proof/Machine/Dispatch.lean ====
section
/-!
DEFINITION. The one dispatch: one arm per row of `spec/opcode_table.json`.
-/
namespace Sys2Proof.Machine

def exec (i : Instr) (s : State) : Host.Outcome State Fault Refusal :=
  match i with
  | .encode => Sys2Proof.Machine.execEncode s
  | .decode => Sys2Proof.Machine.execDecode s
  | .readData => Sys2Proof.Machine.execReadData s
  | .writeData => Sys2Proof.Machine.execWriteData s
  | .v1Instruction id opcode params => Sys2Proof.Machine.execV1Instruction id opcode params s
  | .v1Status id error params => Sys2Proof.Machine.execV1Status id error params s
  | .v2Instruction id opcode params => Sys2Proof.Machine.execV2Instruction id opcode params s
  | .v2Status id instr error params => Sys2Proof.Machine.execV2Status id instr error params s
  | .readV1 id addr width => Sys2Proof.Machine.execReadV1 id addr width s
  | .readV2 id addr width => Sys2Proof.Machine.execReadV2 id addr width s
  | .writeV1W1 id addr value => Sys2Proof.Machine.execWriteV1W1 id addr value s
  | .writeV1W2 id addr value => Sys2Proof.Machine.execWriteV1W2 id addr value s
  | .writeV1W4 id addr value => Sys2Proof.Machine.execWriteV1W4 id addr value s
  | .writeV2W1 id addr value => Sys2Proof.Machine.execWriteV2W1 id addr value s
  | .writeV2W2 id addr value => Sys2Proof.Machine.execWriteV2W2 id addr value s
  | .writeV2W4 id addr value => Sys2Proof.Machine.execWriteV2W4 id addr value s

end Sys2Proof.Machine
end

