-- ==== Sys2Proof/Machine/Engine.lean ====
section
/-!
DEFINITION. The block in single steps (`00_scope.md` R8): accepting a command, one transport request with its answer,
delivering a result. `exec` fuses the steps of a whole command (allowed by `10_state.md` R22, `44_transaction_engine.md` R110;
log 1); an offer taken stepwise begins here, and from a state in which a transaction is in progress `step` takes one of these.
-/
namespace Sys2Proof.Machine

/-- The transaction in progress, by `CMD`, which the host may not change meanwhile (`10_state.md` R31). -/
def State.transaction (s : State) : Transaction := if s.ops.cmd = 3 then .read else .write

/-- Enter a terminal state; the result is delivered next (R110). -/
def State.terminate (s : State) (r : Result × TxnState) : State := (s.setTxn r.2).setPhase (.deliver r.1)

/-- What follows a read of the hunt: the header is found, or the resync window is used up, or one more byte is read
(`44_transaction_engine.md` R106; log 19). -/
def State.afterHuntRead (s : State) : State :=
  if s.headerFound then s.setPhase .afterHeader
  else if s.cfg.resyncWindow ≤ s.seq.resyncCnt then s.terminate (.frameError .header, .malformed)
  else s.setPhase .huntNext

/-- One `RxRead(n)`: `k` takes the bytes; a failure ends RECEIVE at once with its answer (R106). -/
def State.readThen (s : State) (n : Nat) (k : List Byte → State → State) : State :=
  match s.rxRead n with
  | (.bytes b, s) => k b s
  | (.timeout, s) => s.terminate (.timeout, .timedOut)
  | (.ioError, s) => s.terminate (.ioError, .ioFailed)

/-- One step of a transaction in progress: one transport request with its answer, or the completion (`00_scope.md` R8), along the
edges of `44_transaction_engine.md` R108. DESIGN CHOICE (log 27): the edge `Sent -> AwaitingResponse`, which makes no request, is
taken in the step of the first `RxRead`. -/
def engineStep (s : State) : State :=
  match s.seq.phase with
  | .rest => s
  | .write =>
    match s.txWrite s.txFrame with
    | (.ok, s) => (s.setTxn .sent).setPhase .sent
    | (.ioError, s) => s.terminate (.ioError, .ioFailed)
  | .sent =>
    if s.isBroadcast s.transaction then deliver .okWrite s
    else s.startReceive.readThen (headerLen s.cfg.version) (fun w s => (s.openHunt w).afterHuntRead)
  | .huntNext => s.readThen 1 (fun d s => (s.slideHunt d).afterHuntRead)
  | .afterHeader =>
    s.readThen (prefixLen s.cfg.version) (fun p s =>
      if lenField s.cfg.version p < minStatusLen s.cfg.version then s.terminate (.frameError .length, .malformed)
      else s.setPhase (.body p))
  | .body p =>
    s.readThen (lenField s.cfg.version p) (fun body s =>
      (takeFrame s p body).2.terminate (conclude s.transaction s.seq (takeFrame s p body).1))
  | .deliver r => deliver r s

/-- The first step of READ_DATA or WRITE_DATA: the command is accepted and its frame built, or it completes at once with
`WIDTH_MISMATCH`, or it is refused (R104, R105). -/
def beginTransaction (k : Transaction) (s : State) : Out :=
  offer (s.setCmd k.code) (fun s =>
    if !widthCheck k s.ops then .next (deliver .widthMismatch s)
    else if !addressFits s.cfg.version s.ops then .refused .addressTooWide
    else .next ((s.prepare k).setPhase .write))

end Sys2Proof.Machine
end

