-- ==== Sys2Proof/Machine/Codes.lean ====
section
/-!
DEFINITION. The numeric codes the spec gives the named values (`10_state.md` R14, R15, R22; `60_exceptions.md` R126, R127):
what a host reads. The machine itself works on the names (`92_eei_decisions.md` D30).
-/
namespace Sys2Proof.Machine

/-- The code of `CFG.VERSION` (`10_state.md` R14). -/
def versionCode : Version → BitVec 1
  | .v1 => 0
  | .v2 => 1

/-- The code of `CFG.CRC_SPAN_V2` (`10_state.md` R14). -/
def crcSpanCode : CrcSpan → BitVec 1
  | .afterHeader => 0
  | .wholeFrame => 1

/-- The code of `OP_ACCESS` (`10_state.md` R15). -/
def accessCode : Access → BitVec 1
  | .readOnly => 0
  | .readWrite => 1

/-- The code of `TXN_STATE` (`10_state.md` R22). -/
def txnCode : TxnState → BitVec 3
  | .idle => 0
  | .sent => 1
  | .awaitingResponse => 2
  | .decoded => 3
  | .timedOut => 4
  | .malformed => 5
  | .ioFailed => 6

/-- The code of `RES_KIND` (`60_exceptions.md` R126). -/
def kindCode : ResKind → BitVec 3
  | .ok => 0
  | .frameError => 1
  | .timeout => 2
  | .motorError => 3
  | .unexpectedId => 4
  | .unknownRegister => 5
  | .widthMismatch => 6
  | .ioError => 7

/-- The code of `RES_CAUSE` (`60_exceptions.md` R127). -/
def causeCode : Cause → BitVec 2
  | .header => 0
  | .length => 1
  | .check => 2
  | .unstuff => 3

end Sys2Proof.Machine
end

