-- ==== Sys2Proof/Machine/HostPort.lean ====
section
/-!
DEFINITION. The host's side of the command port: operand writes and reads (`10_state.md` R17, R30, R31).
-/
namespace Sys2Proof.Machine

/-- The state after an operand write (`10_state.md` R15, R16, R20). -/
def applyWrite (s : State) : PortWrite → State
  | .cmd v => { s with ops := { s.ops with cmd := v } }
  | .id v => { s with ops := { s.ops with id := v } }
  | .opcode v => { s with ops := { s.ops with opcode := v } }
  | .addr v => { s with ops := { s.ops with addr := v } }
  | .regw v => { s with ops := { s.ops with regw := v } }
  | .access v => { s with ops := { s.ops with access := v } }
  | .reqw v => { s with ops := { s.ops with reqw := v } }
  | .value v => { s with ops := { s.ops with value := v } }
  | .plen v => { s with ops := { s.ops with plen := v } }
  | .pbuf i bs => { s with ops := { s.ops with pbuf := memWrite s.ops.pbuf i bs } }
  | .rxlen v => { s with bufs := { s.bufs with rxlen := v } }
  | .rxbuf i bs => { s with bufs := { s.bufs with rx := memWrite s.bufs.rx i bs } }

/-- A host write, refused while a command is in progress (`10_state.md` R31). -/
def hostWrite (w : PortWrite) (s : State) : Out :=
  if s.flags.busy then .refused .hostWriteWhileBusy else .next (applyWrite s w)

/-- The result register is valid (`DONE`, `10_state.md` R24) and holds a specified value (R17). -/
def State.resValid (s : State) (r : ResReg) : Bool := s.flags.done && s.res.specified.contains r

/-- `TXBUF` and `TXLEN` may be read: after ENCODE, while `TXBUF` keeps its frame (`10_state.md` R19, R30; log 21). -/
def State.txValid (s : State) : Bool := s.flags.done && s.bufs.txEncoded

/-- What is read, where it holds a specified value; an index of a buffer is below its length (`20_memory.md` R32). -/
def readable (s : State) : HostReg → Bool
  | .busy => true
  | .done => true
  | .kind => s.resValid .kind
  | .cause => s.resValid .cause
  | .id => s.resValid .id
  | .instr => s.resValid .instr
  | .err => s.resValid .err
  | .value => s.resValid .value
  | .plen => s.resValid .params
  | .params i => s.resValid .params && decide (i < s.res.plen.toNat)
  | .txlen => s.txValid
  | .txbuf i => s.txValid && decide (i < s.bufs.txlen)

/-- The value a host read gives, zero-extended to 32 bits. -/
def portValue (s : State) : HostReg → Word32
  | .busy => if s.flags.busy then 1 else 0
  | .done => if s.flags.done then 1 else 0
  | .kind => (kindCode s.res.kind).setWidth 32
  | .cause => (causeCode s.res.cause).setWidth 32
  | .id => s.res.id.setWidth 32
  | .instr => s.res.instr.setWidth 32
  | .err => s.res.err.setWidth 32
  | .value => s.res.value
  | .plen => s.res.plen.setWidth 32
  | .params i => (memGet s.res.params i).setWidth 32
  | .txlen => BitVec.ofNat 32 s.bufs.txlen
  | .txbuf i => (memGet s.bufs.tx i).setWidth 32

/-- A host read. Of a register that holds no specified value it is a fault, never a value: `10_state.md` R17 (result registers),
R30 (`TXBUF` and `TXLEN` are the host's only after ENCODE), `93_implementation_defined.md` U8 (the treatment `fault`),
`92_eei_decisions.md` D31; an index at or above a buffer's length is none (`20_memory.md` R32). -/
def hostRead (r : HostReg) (s : State) : Out :=
  if readable s r then .next { s with world := { s.world with seen := s.world.seen ++ [(r, portValue s r)] } }
  else .fault (.unspecifiedRead r)

/-- Bytes arrive and wait in the transport; RXL-FP does not notice them (`60_exceptions.md` R136). -/
def lineArrive (bs : List Byte) (s : State) : State :=
  { s with transport := { s.transport with unread := s.transport.unread ++ bs } }

end Sys2Proof.Machine
end

