-- ==== Sys2Proof/Machine/Fetch.lean ====
section
/-!
DEFINITION. Fetching: RXL-FP executes no stored program (`10_state.md` R21); the next instruction is what the outside world's
script offers (log 2, log 15).
-/
namespace Sys2Proof.Machine

/-- The script without its first event. -/
def State.advance (s : State) : State := { s with world := { s.world with script := s.world.script.tail } }

/-- Words that decode run as the instruction they stand for. A code that is no command is refused (`30_encoding.md` R60).
Illegal bytes on the receive side are DECODE's to judge: it completes with `FRAME_ERROR` (R59; log 25); on the transmit side
they are nothing the block builds. -/
def runWords (ws : Words) (s : State) : Out :=
  match decode s.cfg.version s.cfg.crcSpan ws with
  | .ok i => exec i s
  | .error (.notACommand code) => .refused (.notACommand code)
  | .error (.notAFrame .rx _) =>
    match ws with
    | .frame _ b => decodeCall b s
    | .command code => .refused (.notACommand code)
  | .error (.notAFrame .tx c) => .refused (.undecodable c)

/-- The command in `CMD`, begun in single steps. ENCODE and DECODE make no transport request: accepting them completes them
(`44_transaction_engine.md` R108). -/
def runStepwise (s : State) : Out :=
  if s.ops.cmd = 3 then beginTransaction .read s
  else if s.ops.cmd = 4 then beginTransaction .write s
  else runWords (.command s.ops.cmd) s

/-- An act of the host: a write (`10_state.md` R31), a read (R30), an offer (`44_transaction_engine.md` R101). -/
def runAct (a : HostAct) (s : State) : Out :=
  match a with
  | .write w => hostWrite w s
  | .read r => hostRead r s
  | .offer => runWords (.command s.ops.cmd) s

/-- One event of the script, between commands. -/
def runEvent (e : Event) (s : State) : Out :=
  match e with
  | .write w => runAct (.write w) s
  | .read r => runAct (.read r) s
  | .arrive bs => .next (lineArrive bs s)
  | .offer => runAct .offer s
  | .offerStepwise => runStepwise s
  | .frame side b => runWords (.frame side b) s
  | .now a => runAct a s
  | .wait => .next s

/-- A step while a transaction is in progress, `e` being the script's next event: the host acts if it does not wait, else the
block takes its step. -/
def runDuring (e : Event) (s : State) : Out :=
  match e with
  | .now a => runAct a s.advance
  | .wait => .next (engineStep s.advance)
  | .write _ => .next (engineStep s)
  | .read _ => .next (engineStep s)
  | .arrive _ => .next (engineStep s)
  | .offer => .next (engineStep s)
  | .offerStepwise => .next (engineStep s)
  | .frame _ _ => .next (engineStep s)

/-- The next step: a transaction in progress goes on by one step, unless the host acts meanwhile; else the script's next event
happens; with none left the block rests in `Idle` (log 2). -/
def nextStep (s : State) : Out :=
  if s.seq.phase = .rest then
    match s.world.script with
    | [] => .next s
    | e :: _ => runEvent e s.advance
  else
    match s.world.script with
    | [] => .next (engineStep s)
    | e :: _ => runDuring e s

/-- The event that offers the words of a table word. -/
def wordsEvent : Words → Event
  | .command _ => .offer
  | .frame side b => .frame side b

/-- `CMD` as a table word needs it. -/
def wordsCmd (s : State) : Words → BitVec 3
  | .command code => code
  | .frame _ _ => s.ops.cmd

/-- The version of the instance in which a table word runs. -/
def wordsCfg (s : State) : Words → Cfg
  | .command _ => s.cfg
  | .frame _ b => { s.cfg with version := tableVersion b }

/-- Stage words as the next instruction: the code in `CMD` or the frame, offered first; the instance is idle, and of the
frame's own version (log 15). -/
def stageWords (s : State) (ws : Words) : State :=
  { s with
    cfg := wordsCfg s ws
    ops := { s.ops with cmd := wordsCmd s ws }
    seq := { s.seq with txn := .idle, phase := .rest }
    flags := { s.flags with busy := false }
    world := { s.world with script := wordsEvent ws :: s.world.script } }

end Sys2Proof.Machine
end

