-- ==== Sys2Proof/Machine/Step.lean ====
section
/-!
DEFINITION. The step function, and the placing of a table word where `step` fetches its next instruction (log 15).
-/
namespace Sys2Proof.Machine

/-- One step of the machine; see `nextStep`. -/
def step (s : State) : Host.Outcome State Fault Refusal := nextStep s

/-- `s` with the instruction of a table word as the next one `step` runs; a word the table's widths do not admit leaves `s`
unchanged. -/
def State.withFetchWord (s : State) (nbits w : Nat) : State :=
  match tableWords nbits w with
  | none => s
  | some ws => stageWords s ws

end Sys2Proof.Machine
end

