-- ==== Sys2Proof/Safety.lean ====
section
/-!
DEFINITION. What counts as a legal state (`State.Inv`, an invariant of every step) and as a safe step, in the terms the
statements use.
-/
namespace Sys2Proof.Machine

/-- The value of `TXN_STATE` while the sequencer is in a phase (`44_transaction_engine.md` R108): `Idle` until `TxWrite` has
answered, then `Sent`, then `AwaitingResponse`, then the terminal state of the result to be delivered. -/
def phaseTxn : Phase → TxnState → Prop
  | .rest, t => t = .idle
  | .write, t => t = .idle
  | .sent, t => t = .sent
  | .huntNext, t => t = .awaitingResponse
  | .afterHeader, t => t = .awaitingResponse
  | .body _, t => t = .awaitingResponse
  | .deliver r, t =>
    match r with
    | .okRead _ => t = .decoded
    | .okWrite => t = .decoded
    | .motorError _ => t = .decoded
    | .unexpectedId _ => t = .decoded
    | .frameError _ => t = .malformed
    | .timeout => t = .timedOut
    | .ioError => t = .ioFailed
    | .okEncode => False
    | .okDecode _ => False
    | .widthMismatch => False

/-- What the phase counters hold while RECEIVE runs (`10_state.md` R23, `44_transaction_engine.md` R106). -/
def phaseCounters (cfg : Cfg) (q : Sequencer) : Prop :=
  match q.phase with
  | .huntNext =>
    q.hunt.length = headerLen cfg.version ∧ q.hunt ≠ mark cfg.version ∧ q.resyncCnt < cfg.resyncWindow ∧
      q.deadline = cfg.timeout
  | .afterHeader => q.hunt = mark cfg.version ∧ q.resyncCnt ≤ cfg.resyncWindow ∧ q.deadline = cfg.timeout
  | .body p =>
    q.hunt = mark cfg.version ∧ q.resyncCnt ≤ cfg.resyncWindow ∧ q.deadline = cfg.timeout ∧
      p.length = prefixLen cfg.version ∧ minStatusLen cfg.version ≤ lenField cfg.version p
  | .rest => True
  | .write => True
  | .sent => True
  | .deliver _ => True

/-- The legal states: the buffer memories are in canonical form; `BUSY` says exactly that a transaction is in progress, and
then `DONE` is 0; `TXN_STATE` and the phase counters agree with the phase; a transaction in progress is a READ_DATA or
WRITE_DATA; `FFCNT` is 0, 1 or 2; the built frame and the decoded parameters fit their buffers. -/
structure State.Inv (s : State) : Prop where
  pbufWf   : Memory.wf s.ops.pbuf = true
  txWf     : Memory.wf s.bufs.tx = true
  rxWf     : Memory.wf s.bufs.rx = true
  resWf    : Memory.wf s.res.params = true
  busyIff  : s.flags.busy = true ↔ s.seq.phase ≠ .rest
  notBoth  : s.flags.busy = true → s.flags.done = false
  txnPhase : phaseTxn s.seq.phase s.seq.txn
  counters : phaseCounters s.cfg s.seq
  command  : s.seq.phase ≠ .rest → s.ops.cmd = 3 ∨ s.ops.cmd = 4
  ffcnt    : s.accs.ffcnt ≠ 3
  txFits   : s.bufs.txlen ≤ frameCapacity s.cfg.version
  resFits  : ResReg.params ∈ s.res.specified → s.res.plen.toNat ≤ 65531

/-- The step does not end in a fault. -/
def NoFault (s : State) : Prop := ∀ f, step s ≠ .fault f

/-- Every step of the first `n` goes on: none ends in a fault or a refusal. -/
def RunsFor (n : Nat) (s : State) : Prop := ∃ t, Host.Core.run Sys2Proof.core n s = .next t

/-! ### The terms of the statements -/

/-- The status frame a motor sends: `ENCS` of a version (`41_codec_v1.md` R76; `42_codec_v2.md` R86). -/
def statusFrame (v : Version) (span : CrcSpan) (id error : Byte) (params : List Byte) : List Byte :=
  match v with
  | .v1 => encsV1 id error params
  | .v2 => encsV2 span id error params

/-- The domain of `ENCS` (R76, R86). -/
def statusFits (v : Version) (error : Byte) (params : List Byte) : Bool :=
  match v with
  | .v1 => inDomainV1 params
  | .v2 => inDomainV2 (error :: params)

/-- The transport answers as `95_test_vectors.md` L2-E scripts it: `Ok` to a write, the bytes to a read while it has enough. -/
def Transport.Unplanned (t : Transport) : Prop := t.txPlan = [] ∧ t.rxPlan = []

/-- The command of a transaction. -/
def Transaction.instr : Transaction → Instr
  | .read => .readData
  | .write => .writeData

/-- The frame READ_DATA or WRITE_DATA sends in a state (`44_transaction_engine.md` R104, R105). -/
def requestFrame (k : Transaction) (s : State) : List Byte :=
  encFrame s.cfg.version s.cfg.crcSpan s.ops.id (requestOpcode k) (requestParams k s)

/-- READ_DATA or WRITE_DATA runs its transaction in `s`: the instance is idle, the widths (and for a write the value) pass
`WIDTH_CHECK`, and the address fits the version (`44_transaction_engine.md` R101; `43_register_descriptor.md` R95, R97). -/
def Transacts (k : Transaction) (s : State) : Prop :=
  s.ready = true ∧ widthCheck k s.ops = true ∧ addressFits s.cfg.version s.ops = true

/-- A read request, with its answer, under deadline `d`. -/
def Exchange.isRead (d : Timeout) : Exchange → Prop
  | .rxRead _ d' _ => d' = d
  | .txWrite _ _ => False

/-- A read request that has been answered with bytes. -/
def Exchange.gaveBytes : Exchange → Prop
  | .rxRead n _ (.bytes s) => s.length = n
  | _ => False

/-- The event happens between commands only: the host waits for `DONE` with it (log 2). -/
def Event.waitsForDone : Event → Bool
  | .write _ => true
  | .read _ => true
  | .arrive _ => true
  | .offer => true
  | .offerStepwise => true
  | .frame _ _ => true
  | .now _ => false
  | .wait => false

/-- The host does not act next while the block works. -/
def State.undisturbed (s : State) : Bool :=
  match s.world.script with
  | [] => true
  | e :: _ => e.waitsForDone

/-- The bytes of a frame's words. -/
def wordsBytes : Words → List Byte
  | .command _ => []
  | .frame _ b => b

/-- The edges of the table of `44_transaction_engine.md` R108, and the reads that stay in `AwaitingResponse`. -/
def txnEdge : TxnState → TxnState → Bool
  | .idle, .sent => true
  | .idle, .ioFailed => true
  | .sent, .idle => true
  | .sent, .awaitingResponse => true
  | .awaitingResponse, .awaitingResponse => true
  | .awaitingResponse, .timedOut => true
  | .awaitingResponse, .ioFailed => true
  | .awaitingResponse, .malformed => true
  | .awaitingResponse, .decoded => true
  | .decoded, .idle => true
  | .timedOut, .idle => true
  | .malformed, .idle => true
  | .ioFailed, .idle => true
  | _, _ => false

end Sys2Proof.Machine

namespace Sys2Proof

/-- The row sends a frame: the READ and WRITE rows of the opcode table. -/
def Instr.sends : Instr → Bool
  | .readV1 _ _ _ => true
  | .readV2 _ _ _ => true
  | .writeV1W1 _ _ _ => true
  | .writeV1W2 _ _ _ => true
  | .writeV1W4 _ _ _ => true
  | .writeV2W1 _ _ _ => true
  | .writeV2W2 _ _ _ => true
  | .writeV2W4 _ _ _ => true
  | .encode => false
  | .decode => false
  | .readData => false
  | .writeData => false
  | .v1Instruction _ _ _ => false
  | .v1Status _ _ _ => false
  | .v2Instruction _ _ _ => false
  | .v2Status _ _ _ _ => false

/-- The ENCODE-like instructions: the command and the instruction rows that are built, not sent. -/
def Instr.encodes : Instr → Bool
  | .encode => true
  | .decode => false
  | .readData => false
  | .writeData => false
  | .v1Instruction _ _ _ => true
  | .v1Status _ _ _ => false
  | .v2Instruction _ _ _ => true
  | .v2Status _ _ _ _ => false
  | .readV1 _ _ _ => false
  | .readV2 _ _ _ => false
  | .writeV1W1 _ _ _ => false
  | .writeV1W2 _ _ _ => false
  | .writeV1W4 _ _ _ => false
  | .writeV2W1 _ _ _ => false
  | .writeV2W2 _ _ _ => false
  | .writeV2W4 _ _ _ => false

/-- The DECODE-like instructions: the command and the status rows. -/
def Instr.decodes : Instr → Bool
  | .encode => false
  | .decode => true
  | .readData => false
  | .writeData => false
  | .v1Instruction _ _ _ => false
  | .v1Status _ _ _ => true
  | .v2Instruction _ _ _ => false
  | .v2Status _ _ _ _ => true
  | .readV1 _ _ _ => false
  | .readV2 _ _ _ => false
  | .writeV1W1 _ _ _ => false
  | .writeV1W2 _ _ _ => false
  | .writeV1W4 _ _ _ => false
  | .writeV2W1 _ _ _ => false
  | .writeV2W2 _ _ _ => false
  | .writeV2W4 _ _ _ => false

/-- The READ_DATA-like instructions: the command and the READ rows. -/
def Instr.reads : Instr → Bool
  | .encode => false
  | .decode => false
  | .readData => true
  | .writeData => false
  | .v1Instruction _ _ _ => false
  | .v1Status _ _ _ => false
  | .v2Instruction _ _ _ => false
  | .v2Status _ _ _ _ => false
  | .readV1 _ _ _ => true
  | .readV2 _ _ _ => true
  | .writeV1W1 _ _ _ => false
  | .writeV1W2 _ _ _ => false
  | .writeV1W4 _ _ _ => false
  | .writeV2W1 _ _ _ => false
  | .writeV2W2 _ _ _ => false
  | .writeV2W4 _ _ _ => false

end Sys2Proof
end

