-- ==== Sys2Proof/Certificates/Slice0/Obligations.lean ====
section
/-!
DEFINITION. The statements for the provers, from the spec's numbered rules. OBLIGATIONS.json lists them. In them `s` is the
state before and `t` the state after; nothing rests on a free value (log 8).
-/

open Sys2Proof
open Sys2Proof.Machine

/-! ## The check, stuffing and value units -/

/-- `40_checksum_crc.md` R64: `CHECKSUM_V1(s) = 0xFF - (sum(s) mod 256)`, whatever the order of the bytes. -/
def Obligations.ChecksumIsComplementOfTruncatedSum : Prop :=
  ∀ s : List Byte,
    (checksumV1 s).toNat = 0xFF - (s.map BitVec.toNat).sum % 256 ∧
    (∀ s' : List Byte, s.Perm s' → checksumV1 s' = checksumV1 s)

/-- `40_checksum_crc.md` R65, its corner cases: linear over exclusive-or, leading zero bytes do not count. -/
def Obligations.CrcIsLinearAndIgnoresLeadingZeros : Prop :=
  (∀ a b : List Byte, a.length = b.length →
    crcV2 (List.zipWith (fun x y => x ^^^ y) a b) = crcV2 a ^^^ crcV2 b) ∧
  (∀ s : List Byte, crcV2 (0x00 :: s) = crcV2 s)

/-- `40_checksum_crc.md` R69: the table-driven form is equivalent, with the table entries the rule lists. -/
def Obligations.CrcTableDrivenFormAgrees : Prop :=
  (∀ s : List Byte, s.foldl crcTableStep 0 = crcV2 s) ∧
  crcV2 [0] = 0x0000 ∧ crcV2 [1] = 0x8005 ∧ crcV2 [2] = 0x800F ∧ crcV2 [3] = 0x000A ∧ crcV2 [4] = 0x801B ∧
  crcV2 [5] = 0x001E ∧ crcV2 [6] = 0x0014 ∧ crcV2 [7] = 0x8011 ∧ crcV2 [255] = 0x0202

/-- `40_checksum_crc.md` R71: the v1 checksum verifies exactly when the covered bytes and the checksum byte sum to `0xFF`
modulo 256; the v2 CRC exactly when the span's CRC is `f[n-2] | (f[n-1] << 8)`; and a correct v2 frame leaves a non-zero
residue. -/
def Obligations.CheckBytesVerifyByComparison : Prop :=
  (∀ f : List Byte, 3 ≤ f.length →
    (checksumV1 (slice f 2 (f.length - 1)) = byteAt f (f.length - 1) ↔
      ((f.drop 2).map BitVec.toNat).sum % 256 = 0xFF)) ∧
  (∀ (span : CrcSpan) (f : List Byte), 6 ≤ f.length →
    (crcV2 (spanOf span f) = word16 (byteAt f (f.length - 2)) (byteAt f (f.length - 1)) ↔
      f.drop (f.length - 2) = crcBytes (crcV2 (spanOf span f)))) ∧
  (∃ f : List Byte, (decV2 .afterHeader f).isOk = true ∧ crcV2 (f.drop 4) ≠ 0)

/-- `42_codec_v2.md` R83: unstuffing undoes stuffing on every byte sequence, and stuffed bytes never hold `FF FF FD` followed
by a byte other than `FD`, in particular never the v2 header. -/
def Obligations.UnstuffUndoesStuff : Prop :=
  ∀ p : List Byte,
    unstuff (stuff p) = .ok p ∧
    (∀ (l r : List Byte) (d : Byte), stuff p = l ++ [0xFF, 0xFF, 0xFD, d] ++ r → d = 0xFD) ∧
    (∀ l r : List Byte, stuff p ≠ l ++ markV2 ++ r)

/-- `43_register_descriptor.md` R93, R94: the little-endian cut and join, each the other's inverse. -/
def Obligations.LittleEndianCutAndJoin : Prop :=
  (∀ v : Word32,
    leBytes v 1 = [v.extractLsb' 0 8] ∧
    leBytes v 2 = [v.extractLsb' 0 8, v.extractLsb' 8 8] ∧
    leBytes v 4 = [v.extractLsb' 0 8, v.extractLsb' 8 8, v.extractLsb' 16 8, v.extractLsb' 24 8]) ∧
  (∀ (w : Width) (v : Word32), v.toNat < 2 ^ (8 * widthBytes w) → leValue (leBytes v (widthBytes w)) = v) ∧
  (∀ (w : Width) (s : List Byte), s.length = widthBytes w →
    leBytes (leValue s) s.length = s ∧
    leValue s = BitVec.ofNat 32 ((byteAt s 0).toNat + 256 * (byteAt s 1).toNat + 65536 * (byteAt s 2).toNat +
      16777216 * (byteAt s 3).toNat))

/-! ## The codecs -/

/-- `41_codec_v1.md` R78: for every id, error and every parameter list in the domain, decoding the encoded status frame gives
them back. -/
def Obligations.V1StatusRoundTrip : Prop :=
  ∀ (id error : Byte) (params : List Byte), params.length ≤ 253 →
    decV1 (encsV1 id error params) = .ok { id := id, instr := none, error := error, params := params }

/-- `42_codec_v2.md` R88: the same for v2, under either CRC span. -/
def Obligations.V2StatusRoundTrip : Prop :=
  ∀ (span : CrcSpan) (id error : Byte) (params : List Byte), (stuff (error :: params)).length ≤ 65532 →
    decV2 span (encsV2 span id error params) = .ok { id := id, instr := some 0x55, error := error, params := params }

/-- `DEC_V1` accepts exactly the frames `ENCS_V1` builds (from `41_codec_v1.md` R76, R77): no corrupt frame is accepted. -/
def Obligations.V1DecoderAcceptsExactlyEncodedFrames : Prop :=
  ∀ (b : List Byte) (st : StatusPacket),
    decV1 b = .ok st ↔ st.instr = none ∧ st.params.length ≤ 253 ∧ b = encsV1 st.id st.error st.params

/-- `DEC_V2` accepts exactly the frames of the v2 status format, for every instruction byte (from `42_codec_v2.md` R86, R87). -/
def Obligations.V2DecoderAcceptsExactlyEncodedFrames : Prop :=
  ∀ (span : CrcSpan) (b : List Byte) (st : StatusPacket),
    decV2 span b = .ok st ↔
      ∃ i : Byte, st.instr = some i ∧ (stuff (st.error :: st.params)).length ≤ 65532 ∧
        b = frameV2 span st.id i (stuff (st.error :: st.params))

/-- `41_codec_v1.md` R79: one flipped bit in a valid v1 frame is a `FrameError`, with the cause its place gives. -/
def Obligations.V1SingleBitFlipIsFrameError : Prop :=
  ∀ (b : List Byte) (st : StatusPacket), decV1 b = .ok st →
    ∀ k j : Nat, k < b.length → j < 8 →
      decV1 (b.set k (byteAt b k ^^^ BitVec.twoPow 8 j)) =
        .error (if k < 2 then .header else if k = 3 then .length else .check)

/-- `42_codec_v2.md` R90: the same for v2, under either CRC span; the CRC is checked before unstuffing. -/
def Obligations.V2SingleBitFlipIsFrameError : Prop :=
  ∀ (span : CrcSpan) (b : List Byte) (st : StatusPacket), decV2 span b = .ok st →
    ∀ k j : Nat, k < b.length → j < 8 →
      decV2 span (b.set k (byteAt b k ^^^ BitVec.twoPow 8 j)) =
        .error (if k < 4 then .header else if k = 5 ∨ k = 6 then .length else .check)

/-- `42_codec_v2.md` R89: a truncated v2 status frame, of any length short of the whole, is a `FrameError`: `HEADER` below
four bytes, else `LENGTH`. -/
def Obligations.V2TruncationIsFrameError : Prop :=
  ∀ (span : CrcSpan) (b : List Byte) (st : StatusPacket), decV2 span b = .ok st →
    ∀ k : Nat, k < b.length → decV2 span (b.take k) = .error (if k < 4 then .header else .length)

/-! ## Decoding and encoding -/

/-- `30_encoding.md` R60: the command codes, and that 0, 5, 6, 7 are no commands. -/
def Obligations.CommandCodesNameTheCommands : Prop :=
  ∀ (v : Version) (span : CrcSpan),
    decode v span (.command 1) = .ok .encode ∧ decode v span (.command 2) = .ok .decode ∧
    decode v span (.command 3) = .ok .readData ∧ decode v span (.command 4) = .ok .writeData ∧
    decode v span (.command 0) = .error (.notACommand 0) ∧ decode v span (.command 5) = .error (.notACommand 5) ∧
    decode v span (.command 6) = .error (.notACommand 6) ∧ decode v span (.command 7) = .error (.notACommand 7)

/-- A few frames written out from `30_encoding.md` R49 to R56 and `95_test_vectors.md` L2 decode to what they stand for. -/
def Obligations.WrittenOutFramesDecode : Prop :=
  decode .v1 .afterHeader (.frame .tx [0xFF, 0xFF, 0x01, 0x04, 0x02, 0x24, 0x02, 0xD2]) = .ok (.readV1 0x01 0x24 .w2) ∧
  decode .v1 .afterHeader (.frame .rx [0xFF, 0xFF, 0x01, 0x04, 0x00, 0xB4, 0x02, 0x44]) =
    .ok (.v1Status 0x01 0x00 [0xB4, 0x02]) ∧
  decode .v1 .afterHeader (.frame .tx [0xFF, 0xFF, 0x01, 0x05, 0x03, 0x1E, 0x00, 0x02, 0xD6]) =
    .ok (.writeV1W2 0x01 0x1E 0x0200) ∧
  decode .v2 .afterHeader (.frame .tx [0xFF, 0xFF, 0xFD, 0x00, 0x01, 0x03, 0x00, 0x01, 0x3A, 0x14]) =
    .ok (.v2Instruction 0x01 0x01 []) ∧
  decode .v2 .wholeFrame (.frame .rx [0xFF, 0xFF, 0xFD, 0x00, 0x01, 0x04, 0x00, 0x55, 0x00, 0xA1, 0x0C]) =
    .ok (.v2Status 0x01 0x55 0x00 [])

/-- Decode and encode agree: for every well-formed instruction, with every operand at every value the encoding admits. -/
def Obligations.DecodeOfEncodeIsTheInstruction : Prop :=
  ∀ (v : Version) (span : CrcSpan) (i : Instr), i.WellFormed → i.BelongsTo v → decode v span (encode span i) = .ok i

/-- Words have one meaning: what decodes is well-formed, of the instance's version, and its encoding is those very words. -/
def Obligations.EncodeOfDecodeIsTheWords : Prop :=
  ∀ (v : Version) (span : CrcSpan) (ws : Words) (i : Instr), decode v span ws = .ok i →
    i.WellFormed ∧ i.BelongsTo v ∧ encode span i = ws

/-! ## Reset, steps, legal states -/

/-- `70_reset_and_hazards.md` R146: construction takes `CFG` and a transport and yields an instance that is `Idle` with
`BUSY = 0`, `DONE = 0`, and no other register that a host could read a value from; it makes no transport request. -/
def Obligations.ResetIsIdleAndMakesNoRequest : Prop :=
  ∀ (cfg : Cfg) (tr : Transport),
    (State.construct cfg tr).seq.txn = .idle ∧ (State.construct cfg tr).flags = { busy := false, done := false } ∧
    (State.construct cfg tr).cfg = cfg ∧ (State.construct cfg tr).transport = tr ∧ (State.construct cfg tr).ready = true ∧
    (∀ r : HostReg, readable (State.construct cfg tr) r = true ↔ r = .busy ∨ r = .done)

/-- The legal-state invariant holds at reset, whatever the configuration and the transport. -/
def Obligations.ResetIsALegalState : Prop :=
  State.reset.Inv ∧ ∀ (cfg : Cfg) (tr : Transport), (State.construct cfg tr).Inv

/-- Every step keeps the legal-state invariant: buffers in canonical form, `BUSY` and `TXN_STATE` in agreement, at most one
transaction outstanding, the phase counters within their bounds, frames within their buffers. -/
def Obligations.StepKeepsLegalStates : Prop :=
  ∀ s t : State, s.Inv → step s = .next t → t.Inv

/-- What a step does, by the script's next event. An idle block whose script offers the code in `CMD`, or a frame, runs exactly
the instruction those words decode to, the event being used up; a READ_DATA or WRITE_DATA offered stepwise begins; a host write or
read is that write or read. While a transaction is in progress the block takes its own step, unless the host acts at once
(`now`). The script is the model's (log 2, log 15), the single steps are `00_scope.md` R8's (log 1, log 19,
log 27). -/
def Obligations.StepRunsTheDecodedInstruction : Prop :=
  (∀ (s : State) (rest : List Event) (i : Instr), s.seq.phase = .rest → s.world.script = .offer :: rest →
    decode s.cfg.version s.cfg.crcSpan (.command s.ops.cmd) = .ok i →
    step s = exec i { s with world := { s.world with script := rest } }) ∧
  (∀ (s : State) (side : Side) (b : List Byte) (rest : List Event) (i : Instr), s.seq.phase = .rest →
    s.world.script = .frame side b :: rest →
    decode s.cfg.version s.cfg.crcSpan (.frame side b) = .ok i →
    step s = exec i { s with world := { s.world with script := rest } }) ∧
  (∀ (s : State) (rest : List Event), s.seq.phase = .rest → s.world.script = .offerStepwise :: rest →
    (∀ k : Transaction, s.ops.cmd = k.code → step s = beginTransaction k { s with world := { s.world with script := rest } }) ∧
    (∀ i : Instr, s.ops.cmd ≠ 3 → s.ops.cmd ≠ 4 → decode s.cfg.version s.cfg.crcSpan (.command s.ops.cmd) = .ok i →
      step s = exec i { s with world := { s.world with script := rest } })) ∧
  (∀ (s : State) (w : PortWrite) (rest : List Event),
    (s.seq.phase = .rest ∧ s.world.script = .write w :: rest) ∨ s.world.script = .now (.write w) :: rest →
    step s = hostWrite w { s with world := { s.world with script := rest } }) ∧
  (∀ (s : State) (r : HostReg) (rest : List Event),
    (s.seq.phase = .rest ∧ s.world.script = .read r :: rest) ∨ s.world.script = .now (.read r) :: rest →
    step s = hostRead r { s with world := { s.world with script := rest } }) ∧
  (∀ (s : State) (rest : List Event) (i : Instr), s.world.script = .now .offer :: rest →
    decode s.cfg.version s.cfg.crcSpan (.command s.ops.cmd) = .ok i →
    step s = exec i { s with world := { s.world with script := rest } }) ∧
  (∀ (s : State) (rest : List Event), s.world.script = .wait :: rest →
    (s.seq.phase = .rest → step s = .next { s with world := { s.world with script := rest } }) ∧
    (s.seq.phase ≠ .rest → step s = .next (engineStep { s with world := { s.world with script := rest } }))) ∧
  (∀ s : State, s.seq.phase ≠ .rest → s.undisturbed = true → step s = .next (engineStep s)) ∧
  (∀ s : State, s.seq.phase = .rest → s.world.script = [] → step s = .next s)

/-- `44_transaction_engine.md` R101: a command is accepted only when `BUSY = 0`; accepting sets `BUSY <- 1`, `DONE <- 0`; until
completion the block alone works, the host's script and operands standing still but for a `wait` used up; an offer while busy,
waiting for nothing, and a code that is no command, is refused. The script is the model's (log 2). -/
def Obligations.CommandsAreAcceptedOnlyWhenIdle : Prop :=
  (∀ (s : State) (i : Instr), i.WellFormed → s.flags.busy = true → exec i s = .refused .busy) ∧
  (∀ (s : State) (k : State → Out), s.flags.busy = false → s.seq.txn = .idle →
    offer s k = k { s with flags := { busy := true, done := false } }) ∧
  (∀ s : State, s.Inv → s.flags.busy = true → s.undisturbed = true →
    ∃ t, step s = .next t ∧ t.world = s.world ∧ t.ops = s.ops) ∧
  (∀ (s : State) (rest : List Event), s.Inv → s.flags.busy = true → s.world.script = .wait :: rest →
    ∃ t, step s = .next t ∧ t.world = { s.world with script := rest } ∧ t.ops = s.ops) ∧
  (∀ (s : State) (rest : List Event) (i : Instr), s.flags.busy = true → s.world.script = .now .offer :: rest →
    decode s.cfg.version s.cfg.crcSpan (.command s.ops.cmd) = .ok i → step s = .refused .busy) ∧
  (∀ (s : State) (rest : List Event), s.seq.phase = .rest → s.world.script = .offer :: rest →
    (s.ops.cmd = 0 ∨ s.ops.cmd = 5 ∨ s.ops.cmd = 6 ∨ s.ops.cmd = 7) → step s = .refused (.notACommand s.ops.cmd))

/-- `10_state.md` R31: a host write of an operand register, `PBUF`, `RXBUF` or `CMD` while `BUSY = 1` has no meaning. -/
def Obligations.HostWritesAreRefusedWhileBusy : Prop :=
  ∀ (s : State) (w : PortWrite), s.flags.busy = true → hostWrite w s = .refused .hostWriteWhileBusy

/-- What a host write stores, and that it changes nothing else (from `10_state.md` R15, R16, R20, R30). That a write at or above
a buffer's capacity is stored too is the model's reading of `70_reset_and_hazards.md` R160 (log 20), that `RXLEN` takes any number
log 24. -/
def Obligations.HostWritesReachOnlyTheirOwnRegister : Prop :=
  ∀ s : State, s.Inv → s.flags.busy = false →
    (∀ v, hostWrite (.cmd v) s = .next { s with ops := { s.ops with cmd := v } }) ∧
    (∀ v, hostWrite (.id v) s = .next { s with ops := { s.ops with id := v } }) ∧
    (∀ v, hostWrite (.opcode v) s = .next { s with ops := { s.ops with opcode := v } }) ∧
    (∀ v, hostWrite (.addr v) s = .next { s with ops := { s.ops with addr := v } }) ∧
    (∀ v, hostWrite (.regw v) s = .next { s with ops := { s.ops with regw := v } }) ∧
    (∀ v, hostWrite (.access v) s = .next { s with ops := { s.ops with access := v } }) ∧
    (∀ v, hostWrite (.reqw v) s = .next { s with ops := { s.ops with reqw := v } }) ∧
    (∀ v, hostWrite (.value v) s = .next { s with ops := { s.ops with value := v } }) ∧
    (∀ v, hostWrite (.plen v) s = .next { s with ops := { s.ops with plen := v } }) ∧
    (∀ v, hostWrite (.rxlen v) s = .next { s with bufs := { s.bufs with rxlen := v } }) ∧
    (∀ (i : Nat) (bs : List Byte), ∃ t, hostWrite (.pbuf i bs) s = .next t ∧ memRead t.ops.pbuf i bs.length = bs ∧
      (∀ a, a < i ∨ i + bs.length ≤ a → memGet t.ops.pbuf a = memGet s.ops.pbuf a) ∧
      { t with ops := { t.ops with pbuf := s.ops.pbuf } } = s) ∧
    (∀ (i : Nat) (bs : List Byte), ∃ t, hostWrite (.rxbuf i bs) s = .next t ∧ memRead t.bufs.rx i bs.length = bs ∧
      (∀ a, a < i ∨ i + bs.length ≤ a → memGet t.bufs.rx a = memGet s.bufs.rx a) ∧
      { t with bufs := { t.bufs with rx := s.bufs.rx } } = s)

/-- `CFG` is read-only: no step changes it (from `10_state.md` R14, `60_exceptions.md` R137). -/
def Obligations.ConfigurationNeverChanges : Prop :=
  ∀ s t : State, step s = .next t → t.cfg = s.cfg

/-- `60_exceptions.md` R136: bytes that arrive when no command is in progress are not noticed; they wait in the transport. -/
def Obligations.ArrivingBytesOnlyWaitInTheTransport : Prop :=
  ∀ (s : State) (bs : List Byte) (rest : List Event), s.seq.phase = .rest → s.world.script = .arrive bs :: rest →
    step s = .next { s with
      world := { s.world with script := rest }
      transport := { s.transport with unread := s.transport.unread ++ bs } }

/-! ## Results -/

/-- `60_exceptions.md` R133: delivery writes the kind and the information registers R126 names for it, and marks the others
unspecified; then `TXN_STATE <- Idle`, `BUSY <- 0`, `DONE <- 1`; operands, `CFG`, buffers and transport are unchanged. -/
def Obligations.DeliveryWritesTheResultAndFreesTheBlock : Prop :=
  ∀ (r : Result) (s : State),
    (deliver r s).seq.txn = .idle ∧ (deliver r s).flags = { busy := false, done := true } ∧
    (deliver r s).ops = s.ops ∧ (deliver r s).cfg = s.cfg ∧ (deliver r s).bufs = s.bufs ∧
    (deliver r s).transport = s.transport ∧ (deliver r s).res.kind = r.kind ∧
    (match r with
      | .okEncode => (deliver r s).res.specified = [.kind]
      | .okDecode st =>
        (deliver r s).res.id = st.id ∧ (deliver r s).res.err = st.error ∧
        (∀ i, st.instr = some i → (deliver r s).res.instr = i ∧ (deliver r s).res.specified = [.kind, .id, .instr, .err, .params]) ∧
        (st.instr = none → (deliver r s).res.specified = [.kind, .id, .err, .params]) ∧
        (st.params.length ≤ 65531 → (deliver r s).resParams = st.params)
      | .okRead v => (deliver r s).res.value = v ∧ (deliver r s).res.specified = [.kind, .value]
      | .okWrite => (deliver r s).res.specified = [.kind]
      | .frameError c => (deliver r s).res.cause = c ∧ (deliver r s).res.specified = [.kind, .cause]
      | .timeout => (deliver r s).res.specified = [.kind]
      | .motorError e => (deliver r s).res.err = e ∧ (deliver r s).res.specified = [.kind, .err]
      | .unexpectedId i => (deliver r s).res.id = i ∧ (deliver r s).res.specified = [.kind, .id]
      | .widthMismatch => (deliver r s).res.specified = [.kind]
      | .ioError => (deliver r s).res.specified = [.kind])

/-- The numeric codes of result kinds and causes (`60_exceptions.md` R126, R127), as a host reads them. -/
def Obligations.ResultKindsAndCausesHaveTheirCodes : Prop :=
  kindCode .ok = 0 ∧ kindCode .frameError = 1 ∧ kindCode .timeout = 2 ∧ kindCode .motorError = 3 ∧
  kindCode .unexpectedId = 4 ∧ kindCode .unknownRegister = 5 ∧ kindCode .widthMismatch = 6 ∧ kindCode .ioError = 7 ∧
  causeCode .header = 0 ∧ causeCode .length = 1 ∧ causeCode .check = 2 ∧ causeCode .unstuff = 3

/-- `60_exceptions.md` R135: after any result the instance is `Idle` and accepts the next command; results do not nest: while
a command is in progress none is accepted. -/
def Obligations.AfterAnyResultTheNextCommandIsAccepted : Prop :=
  ∀ (i : Instr) (s t : State), exec i s = .next t →
    t.seq.txn = .idle ∧ t.flags = { busy := false, done := true } ∧ t.seq.phase = .rest ∧
    (∀ j : Instr, exec j t ≠ .refused .busy) ∧
    (∀ (j : Instr) (u : State), j.WellFormed → u.flags.busy = true → exec j u = .refused .busy)

/-- No instruction gives `UNKNOWN_REGISTER`, which is reserved for the host's lookup (from `60_exceptions.md` R126,
`43_register_descriptor.md` R96). -/
def Obligations.UnknownRegisterIsNeverGiven : Prop :=
  ∀ (i : Instr) (s t : State), exec i s = .next t → t.res.kind ≠ .unknownRegister

/-- From `10_state.md` R17, R19, R30: after a completed command the host can read exactly the result registers that are
meaningful for that command and result kind, and `TXBUF` with `TXLEN` after ENCODE, while `TXBUF` keeps its frame; a read of
another is a fault, never a value. That a status row reads like DECODE, a READ row like READ_DATA, an instruction row like ENCODE
is log 12; that `TXBUF` stays readable after a DECODE or a failed width check is log 21. -/
def Obligations.HostReadsGiveOnlyMeaningfulResults : Prop :=
  ∀ (i : Instr) (s t : State), exec i s = .next t →
    readable t .kind = true ∧
    (readable t .cause = true ↔ t.res.kind = .frameError) ∧
    (readable t .id = true ↔ (i.decodes = true ∧ t.res.kind = .ok) ∨ t.res.kind = .unexpectedId) ∧
    (readable t .instr = true ↔ i.decodes = true ∧ t.res.kind = .ok ∧ s.cfg.version = .v2) ∧
    (readable t .err = true ↔ (i.decodes = true ∧ t.res.kind = .ok) ∨ t.res.kind = .motorError) ∧
    (readable t .value = true ↔ i.reads = true ∧ t.res.kind = .ok) ∧
    (readable t .plen = true ↔ i.decodes = true ∧ t.res.kind = .ok) ∧
    (∀ k : Nat, readable t (.params k) = true ↔ i.decodes = true ∧ t.res.kind = .ok ∧ k < t.res.plen.toNat) ∧
    (readable t .txlen = true ↔
      i.encodes = true ∨ ((i.decodes = true ∨ t.res.kind = .widthMismatch) ∧ s.bufs.txEncoded = true)) ∧
    (∀ k : Nat, readable t (.txbuf k) = true ↔ readable t .txlen = true ∧ k < t.bufs.txlen) ∧
    (∀ r : HostReg, readable t r = false → hostRead r t = .fault (.unspecifiedRead r)) ∧
    (∀ r : HostReg, readable t r = true →
      hostRead r t = .next { t with world := { t.world with seen := t.world.seen ++ [(r, portValue t r)] } })

/-! ## ENCODE and DECODE -/

/-- `44_transaction_engine.md` R102: ENCODE completes with `OK` wherever its parameters are in the encoder's domain (outside
it, it is refused), and `TXBUF[0..TXLEN)` is `ENC(OP_ID, OP_OPCODE, PBUF[0..PLEN))`; no transport request is made. -/
def Obligations.EncodeLeavesTheFrameInTxbuf : Prop :=
  ∀ s : State, s.ready = true → Memory.wf s.bufs.tx = true →
    (inDomain s.cfg.version s.ops.params = false → exec .encode s = .refused .encodeDomain) ∧
    (inDomain s.cfg.version s.ops.params = true → ∃ t, exec .encode s = .next t ∧
      t.txFrame = encFrame s.cfg.version s.cfg.crcSpan s.ops.id s.ops.opcode s.ops.params ∧
      t.bufs.txlen = (encFrame s.cfg.version s.cfg.crcSpan s.ops.id s.ops.opcode s.ops.params).length ∧
      t.res.kind = .ok ∧ t.flags = { busy := false, done := true } ∧ t.seq.txn = .idle ∧ t.transport = s.transport)

/-- `41_codec_v1.md` R75, `42_codec_v2.md` R85: with more than 253 parameters in v1, or more than 65532 stuffed bytes in v2,
ENCODE is refused; LEN is never wrapped. -/
def Obligations.EncodeOutsideTheDomainIsRefused : Prop :=
  ∀ s : State, s.ready = true →
    (s.cfg.version = .v1 → 253 < s.ops.params.length → exec .encode s = .refused .encodeDomain) ∧
    (s.cfg.version = .v2 → 65532 < (stuff s.ops.params).length → exec .encode s = .refused .encodeDomain)

/-- `44_transaction_engine.md` R103: DECODE completes with the active decoder's answer on `RXBUF[0..RXLEN)`: `OK` with the
packet's fields in the result registers, or `FRAME_ERROR` with the cause; no transport request is made. -/
def Obligations.DecodeReportsTheDecodersAnswer : Prop :=
  ∀ s : State, s.ready = true →
    (∀ st, decFrame s.cfg.version s.cfg.crcSpan s.rxFrame = .ok st →
      ∃ t, exec .decode s = .next t ∧ t.res.kind = .ok ∧ t.res.id = st.id ∧ t.res.err = st.error ∧
        (∀ i, st.instr = some i → t.res.instr = i) ∧ t.resParams = st.params ∧ t.res.plen.toNat = st.params.length ∧
        t.flags = { busy := false, done := true } ∧ t.seq.txn = .idle ∧ t.transport = s.transport) ∧
    (∀ c, decFrame s.cfg.version s.cfg.crcSpan s.rxFrame = .error c →
      ∃ t, exec .decode s = .next t ∧ t.res.kind = .frameError ∧ t.res.cause = c ∧
        t.flags = { busy := false, done := true } ∧ t.seq.txn = .idle ∧ t.transport = s.transport)

/-- From `70_reset_and_hazards.md` R157: DECODE of a well-formed frame gives `OK` with the raw error field in `RES_ERR`, whatever
it is; only READ_DATA and WRITE_DATA turn a non-zero one into `MOTOR_ERROR`, the READ and WRITE rows being such calls (log 12). -/
def Obligations.DecodeGivesTheErrorFieldAsData : Prop :=
  (∀ (s : State) (id error : Byte) (params : List Byte), s.ready = true →
    statusFits s.cfg.version error params = true →
    s.rxFrame = statusFrame s.cfg.version s.cfg.crcSpan id error params →
    ∃ t, exec .decode s = .next t ∧ t.res.kind = .ok ∧ t.res.err = error ∧ t.res.id = id ∧ t.resParams = params) ∧
  (∀ (i : Instr) (s t : State), exec i s = .next t → t.res.kind = .motorError →
    i = .readData ∨ i = .writeData ∨ i.sends = true)

/-- Bytes handed over on the receive side that are no frame of the instance's version complete with `FRAME_ERROR` and the
first failing check's cause (from `30_encoding.md` R59, `60_exceptions.md` R128; the call itself is the model's event, log 25). -/
def Obligations.IllegalReceivedBytesGiveFrameError : Prop :=
  ∀ (s : State) (b : List Byte) (rest : List Event) (c : Cause), s.Inv → s.seq.phase = .rest →
    s.world.script = .frame .rx b :: rest →
    decFrame s.cfg.version s.cfg.crcSpan b = .error c →
    ∃ t, step s = .next t ∧ t.res.kind = .frameError ∧ t.res.cause = c ∧ t.transport = s.transport

/-- What ENCODE and DECODE leave unchanged: all but `CMD` of the operand registers, `CFG`, the sequencer, the transport, the
host's script; ENCODE writes `TXBUF` only at indexes 0 to `TXLEN - 1`, and nothing of `RXBUF`; DECODE writes no buffer but
`RES_PARAMS`. In v1 only `CHK8` of the accumulators may change, in v2 only `CRC16` and `FFCNT`. -/
def Obligations.CodecCommandsLeaveTheRestAlone : Prop :=
  ∀ (i : Instr) (s t : State), s.Inv → (i = .encode ∨ i = .decode) → exec i s = .next t →
    { t.ops with cmd := s.ops.cmd } = s.ops ∧ t.cfg = s.cfg ∧ t.seq = s.seq ∧ t.transport = s.transport ∧
    t.world = s.world ∧ t.bufs.rx = s.bufs.rx ∧ t.bufs.rxlen = s.bufs.rxlen ∧
    (i = .encode → ∀ a : Nat, t.bufs.txlen ≤ a → memGet t.bufs.tx a = memGet s.bufs.tx a) ∧
    (i = .decode → t.bufs = s.bufs) ∧
    (s.cfg.version = .v1 → t.accs.crc16 = s.accs.crc16 ∧ t.accs.ffcnt = s.accs.ffcnt) ∧
    (s.cfg.version = .v2 → t.accs.chk8 = s.accs.chk8)

/-! ## READ_DATA and WRITE_DATA -/

/-- `44_transaction_engine.md` R118: a failed width check completes with `WIDTH_MISMATCH` and touches nothing: no request,
the TX and RX streams, the buffers, operands, sequencer and accumulators as before. -/
def Obligations.WidthMismatchTouchesNothing : Prop :=
  ∀ (k : Transaction) (s : State), s.ready = true → widthCheck k s.ops = false →
    ∃ t, exec k.instr s = .next t ∧ t.res.kind = .widthMismatch ∧ t.transport = s.transport ∧ t.bufs = s.bufs ∧
      t.accs = s.accs ∧ t.cfg = s.cfg ∧ t.world = s.world ∧ { t.ops with cmd := s.ops.cmd } = s.ops ∧
      { t.seq with phase := s.seq.phase } = s.seq ∧ t.flags = { busy := false, done := true }

/-- `43_register_descriptor.md` R95: the width check passes exactly when `OP_REGW` is 1, 2 or 4, `OP_REQW = OP_REGW`, and, for
WRITE_DATA, `OP_VALUE < 2^(8 * OP_REGW)`; otherwise the command completes with `WIDTH_MISMATCH`, with no transport request. -/
def Obligations.WidthCheckPassesExactlyOnLegalWidths : Prop :=
  ∀ (k : Transaction) (s : State),
    (widthCheck k s.ops = true ↔
      (s.ops.regw = 1 ∨ s.ops.regw = 2 ∨ s.ops.regw = 4) ∧ s.ops.reqw = s.ops.regw ∧
        (k = .write → s.ops.value.toNat < 2 ^ (8 * s.ops.regw.toNat))) ∧
    (s.ready = true → widthCheck k s.ops = false →
      ∃ t, exec k.instr s = .next t ∧ t.res.kind = .widthMismatch ∧ t.transport.log = s.transport.log)

/-- `43_register_descriptor.md` R97, with the width check first (the model's reading, log 16): a v1 command with
`OP_ADDR >= 256` is refused, never truncated. -/
def Obligations.WideAddressIsRefusedInV1 : Prop :=
  ∀ (k : Transaction) (s : State), s.ready = true → widthCheck k s.ops = true → s.cfg.version = .v1 →
    256 ≤ s.ops.addr.toNat → exec k.instr s = .refused .addressTooWide

/-- Every READ_DATA and WRITE_DATA that passes its checks completes, whatever the transport answers: its frame is handed over
in exactly one `TxWrite`, answered before the first `RxRead`; all later requests are reads under the one deadline; after an
`IoError` on the write none is made (from `20_memory.md` R38, R42; `44_transaction_engine.md` R109, R111, R114). -/
def Obligations.TransactionsWriteOnceAndThenOnlyRead : Prop :=
  ∀ (k : Transaction) (s : State), s.Inv → Transacts k s →
    ∃ (t : State) (a : TxAnswer) (reads : List Exchange),
      exec k.instr s = .next t ∧
      t.transport.log = s.transport.log ++ .txWrite (requestFrame k s) a :: reads ∧
      (∀ e ∈ reads, e.isRead s.cfg.timeout) ∧
      (a = .ioError → reads = [] ∧ t.res.kind = .ioError) ∧
      t.txFrame = requestFrame k s ∧ t.flags = { busy := false, done := true } ∧ t.seq.txn = .idle

/-- `60_exceptions.md` R129 and `44_transaction_engine.md` R114: the result is `TIMEOUT` exactly when an `RxRead` answers
`Timeout`, `IO_ERROR` exactly when a request answers `IoError`; either ends the transaction: every earlier read gave its bytes. -/
def Obligations.TransportFailuresEndTheTransaction : Prop :=
  ∀ (k : Transaction) (s t : State), s.Inv → Transacts k s → exec k.instr s = .next t →
    ∃ reads : List Exchange,
      (t.transport.log = s.transport.log ++ .txWrite (requestFrame k s) .ioError :: reads ∧ reads = [] ∧ t.res.kind = .ioError) ∨
      (t.transport.log = s.transport.log ++ .txWrite (requestFrame k s) .ok :: reads ∧
        ((t.res.kind = .timeout ∧ ∃ init n, reads = init ++ [.rxRead n s.cfg.timeout .timeout] ∧ ∀ e ∈ init, e.gaveBytes) ∨
         (t.res.kind = .ioError ∧ ∃ init n, reads = init ++ [.rxRead n s.cfg.timeout .ioError] ∧ ∀ e ∈ init, e.gaveBytes) ∨
         (t.res.kind ≠ .timeout ∧ t.res.kind ≠ .ioError ∧ ∀ e ∈ reads, e.gaveBytes)))

/-- `44_transaction_engine.md` R112: WRITE_DATA to the broadcast ID builds and writes its frame like any other, issues no
`RxRead`, and completes with `OK`, or with `IO_ERROR` if the write answers so; the unread bytes are untouched. The width check comes first,
as usual. -/
def Obligations.BroadcastWriteIssuesNoRead : Prop :=
  ∀ s : State, s.Inv → s.ready = true → addressFits s.cfg.version s.ops = true → s.ops.id = s.cfg.broadcastId →
    (widthCheck .write s.ops = false →
      ∃ t, exec .writeData s = .next t ∧ t.res.kind = .widthMismatch ∧ t.transport = s.transport) ∧
    (widthCheck .write s.ops = true →
      ∃ (t : State) (a : TxAnswer), exec .writeData s = .next t ∧
      t.transport.log = s.transport.log ++ [.txWrite (requestFrame .write s) a] ∧
      t.transport.unread = s.transport.unread ∧ t.transport.rxPlan = s.transport.rxPlan ∧
      (a = .ok → t.res.kind = .ok ∧ t.transport.txStream = s.transport.txStream ++ requestFrame .write s) ∧
      (a = .ioError → t.res.kind = .ioError))

/-- `44_transaction_engine.md` R107: a response that decodes is classified by its ID, then its error field, then, for
READ_DATA only, its parameter count; if all pass the result is `OK`, of READ_DATA with the little-endian value. The frame is
consumed, what follows it stays unread. -/
def Obligations.ResponsesAreClassifiedInOrder : Prop :=
  ∀ (k : Transaction) (s : State) (b rest : List Byte) (st : StatusPacket), s.Inv → Transacts k s → s.transport.Unplanned →
    (k = .write → s.ops.id ≠ s.cfg.broadcastId) → decFrame s.cfg.version s.cfg.crcSpan b = .ok st →
    s.transport.unread = b ++ rest →
    ∃ t, exec k.instr s = .next t ∧
      t.transport.unread = rest ∧ t.transport.txStream = s.transport.txStream ++ requestFrame k s ∧
      t.rxFrame = b ∧ t.seq.resyncCnt = 0 ∧
      (st.id ≠ s.ops.id → t.res.kind = .unexpectedId ∧ t.res.id = st.id) ∧
      (st.id = s.ops.id → st.error ≠ 0 → t.res.kind = .motorError ∧ t.res.err = st.error) ∧
      (st.id = s.ops.id → st.error = 0 → k = .read → st.params.length ≠ s.ops.regw.toNat →
        t.res.kind = .frameError ∧ t.res.cause = .length) ∧
      (st.id = s.ops.id → st.error = 0 → k = .read → st.params.length = s.ops.regw.toNat →
        t.res.kind = .ok ∧ t.res.value = leValue st.params) ∧
      (st.id = s.ops.id → st.error = 0 → k = .write → t.res.kind = .ok)

/-- What the frame taken from the RX stream gives when it does not decode (from `44_transaction_engine.md` R104 to R106,
`60_exceptions.md` R128, R134). With a LEN of at least the minimum, the announced frame is consumed and stored, and the result is
`FRAME_ERROR` with the decoder's cause; with a LEN below it, nothing after the fixed bytes is read, no frame is stored, and the
result is `FRAME_ERROR(LENGTH)`. -/
def Obligations.MalformedResponsesGiveFrameError : Prop :=
  ∀ (k : Transaction) (s : State) (p rest : List Byte), s.Inv → Transacts k s → s.transport.Unplanned →
    (k = .write → s.ops.id ≠ s.cfg.broadcastId) → p.length = prefixLen s.cfg.version →
    (∀ (body : List Byte) (c : Cause), minStatusLen s.cfg.version ≤ lenField s.cfg.version p →
      body.length = lenField s.cfg.version p → s.transport.unread = mark s.cfg.version ++ p ++ body ++ rest →
      decFrame s.cfg.version s.cfg.crcSpan (mark s.cfg.version ++ p ++ body) = .error c →
      ∃ t, exec k.instr s = .next t ∧ t.res.kind = .frameError ∧ t.res.cause = c ∧ t.transport.unread = rest ∧
        t.rxFrame = mark s.cfg.version ++ p ++ body ∧ t.seq.resyncCnt = 0 ∧
        t.transport.txStream = s.transport.txStream ++ requestFrame k s) ∧
    (lenField s.cfg.version p < minStatusLen s.cfg.version → s.transport.unread = mark s.cfg.version ++ p ++ rest →
      ∃ t, exec k.instr s = .next t ∧ t.res.kind = .frameError ∧ t.res.cause = .length ∧ t.transport.unread = rest ∧
        t.bufs.rx = s.bufs.rx ∧ t.bufs.rxlen = s.bufs.rxlen ∧ t.seq.resyncCnt = 0 ∧
        t.transport.txStream = s.transport.txStream ++ requestFrame k s)

/-- `44_transaction_engine.md` R117: with a transport whose first read times out, READ_DATA makes one `TxWrite` and one
`RxRead` of the header length, gives `TIMEOUT`, and leaves the instance ready. -/
def Obligations.TimeoutLeavesTheEngineUsable : Prop :=
  ∀ (s : State) (arrived : List Byte) (lost : Nat) (plan : List RxPlan), s.Inv → Transacts .read s →
    s.transport.txPlan = [] → s.transport.rxPlan = { arrived := arrived, verdict := .timeout lost } :: plan →
    ∃ t, exec .readData s = .next t ∧ t.res.kind = .timeout ∧
      t.transport.log = s.transport.log ++
        [.txWrite (requestFrame .read s) .ok, .rxRead (headerLen s.cfg.version) s.cfg.timeout .timeout] ∧
      t.ready = true ∧ t.seq.txn = .idle

/-- `44_transaction_engine.md` R106, the hunt: it discards exactly the bytes that precede the first header in the stream; the
result is then that of the stream without them; with more of them than the resync window allows, the result is
`FRAME_ERROR(HEADER)` and only the header length and the window have been read. -/
def Obligations.HuntDiscardsExactlyTheStrayBytes : Prop :=
  ∀ (k : Transaction) (s : State) (stray rest : List Byte), s.Inv → Transacts k s → s.transport.Unplanned →
    (k = .write → s.ops.id ≠ s.cfg.broadcastId) →
    s.transport.unread = stray ++ mark s.cfg.version ++ rest →
    (∀ j < stray.length, (s.transport.unread.drop j).take (headerLen s.cfg.version) ≠ mark s.cfg.version) →
    (stray.length ≤ s.cfg.resyncWindow →
      ∃ t t', exec k.instr s = .next t ∧
        exec k.instr { s with transport := { s.transport with unread := mark s.cfg.version ++ rest } } = .next t' ∧
        t.seq.resyncCnt = stray.length ∧ t.seq.hunt = mark s.cfg.version ∧ t.res = t'.res ∧ t.bufs = t'.bufs ∧
        t.transport.unread = t'.transport.unread) ∧
    (s.cfg.resyncWindow < stray.length →
      ∃ t, exec k.instr s = .next t ∧ t.res.kind = .frameError ∧ t.res.cause = .header ∧
        t.seq.resyncCnt = s.cfg.resyncWindow ∧
        t.transport.unread = s.transport.unread.drop (headerLen s.cfg.version + s.cfg.resyncWindow))

/-- From `44_transaction_engine.md` R106: RECEIVE consumes at most the header length, the resync window, the fixed bytes and
the longest LEN of the version. -/
def Obligations.ReceiveConsumesABoundedNumberOfBytes : Prop :=
  ∀ (k : Transaction) (s t : State), s.transport.Unplanned → exec k.instr s = .next t →
    s.transport.unread.length ≤ t.transport.unread.length + headerLen s.cfg.version + s.cfg.resyncWindow +
      prefixLen s.cfg.version + (match s.cfg.version with | .v1 => 255 | .v2 => 65535)

/-- `44_transaction_engine.md` R116: the data bytes of the write frame are `LE_BYTES(v, w)`, and a READ_DATA whose response
parameters are those bytes returns `v`, in v1 and, through stuffing, in v2. -/
def Obligations.WriteThenReadReturnsTheValue : Prop :=
  ∀ (s : State) (rest : List Byte), s.Inv → Transacts .read s → s.transport.Unplanned →
    s.ops.value.toNat < 2 ^ (8 * s.ops.regw.toNat) →
    s.transport.unread = statusFrame s.cfg.version s.cfg.crcSpan s.ops.id 0 (leBytes s.ops.value s.ops.regw.toNat) ++ rest →
    requestFrame .write s = encFrame s.cfg.version s.cfg.crcSpan s.ops.id opWrite
      ((match s.cfg.version with | .v1 => [lo8 s.ops.addr] | .v2 => [lo8 s.ops.addr, hi8 s.ops.addr]) ++
        leBytes s.ops.value s.ops.regw.toNat) ∧
    (∃ t, exec .readData s = .next t ∧ t.res.kind = .ok ∧ t.res.value = s.ops.value)

/-- What READ_DATA and WRITE_DATA leave unchanged: all but `CMD` of the operand registers, `CFG`, the host's script;
`TXBUF` outside the frame built; `RXBUF` outside the frame received, and all of it when none was assembled: a result of
`TIMEOUT`, `IO_ERROR`, `WIDTH_MISMATCH`, `FRAME_ERROR(HEADER)`, a broadcast write, or no read after the hunt's (one and one for
each stray byte) and the fixed bytes', as when LEN is below the minimum; WRITE_DATA leaves `REQ_W`; in v1 only `CHK8` of the
accumulators may change, in v2 only `CRC16` and `FFCNT`. That `TXBUF` and `RXBUF` keep their bytes at and above the new frame's
length is log 28. -/
def Obligations.TransactionsLeaveTheRestAlone : Prop :=
  ∀ (k : Transaction) (s t : State), s.Inv → exec k.instr s = .next t →
    { t.ops with cmd := s.ops.cmd } = s.ops ∧ t.cfg = s.cfg ∧ t.world = s.world ∧
    (∀ a : Nat, t.bufs.txlen ≤ a → memGet t.bufs.tx a = memGet s.bufs.tx a) ∧
    (∀ a : Nat, t.bufs.rxlen ≤ a → memGet t.bufs.rx a = memGet s.bufs.rx a) ∧
    ((t.res.kind = .timeout ∨ t.res.kind = .ioError ∨ t.res.kind = .widthMismatch ∨
        (t.res.kind = .frameError ∧ t.res.cause = .header)) →
      t.bufs.rx = s.bufs.rx ∧ t.bufs.rxlen = s.bufs.rxlen) ∧
    (k = .write → s.ops.id = s.cfg.broadcastId → t.bufs.rx = s.bufs.rx ∧ t.bufs.rxlen = s.bufs.rxlen) ∧
    (∀ (a : TxAnswer) (reads : List Exchange), t.transport.log = s.transport.log ++ .txWrite (requestFrame k s) a :: reads →
      reads.length ≤ t.seq.resyncCnt + 2 → t.bufs.rx = s.bufs.rx ∧ t.bufs.rxlen = s.bufs.rxlen) ∧
    (k = .write → t.seq.reqW = s.seq.reqW) ∧
    (s.cfg.version = .v1 → t.accs.crc16 = s.accs.crc16 ∧ t.accs.ffcnt = s.accs.ffcnt) ∧
    (s.cfg.version = .v2 → t.accs.chk8 = s.accs.chk8)

/-! ## The sequencer in single steps -/

/-- A transaction in progress moves `TXN_STATE` only along the edges of `44_transaction_engine.md` R108, one a step (reads stay in
`AwaitingResponse`), but that the first read's step goes from `Sent` through `AwaitingResponse`, where its answer may lead on
(log 27); it delivers a result exactly when it returns to `Idle`; an act of the host meanwhile moves nothing. -/
def Obligations.SequencerMovesOnlyAlongTheEdges : Prop :=
  ∀ s : State, s.Inv → s.seq.phase ≠ .rest →
    ((∀ a rest, s.world.script ≠ .now a :: rest) →
      ∃ t, step s = .next t ∧
        (txnEdge s.seq.txn t.seq.txn = true ∨ (s.seq.txn = .sent ∧ txnEdge .awaitingResponse t.seq.txn = true)) ∧
        (t.seq.txn = .idle → t.flags = { busy := false, done := true }) ∧
        (t.seq.txn ≠ .idle → t.flags = s.flags ∧ t.res = s.res)) ∧
    (∀ a rest t, s.world.script = .now a :: rest → step s = .next t →
      { t with world := s.world } = s)

/-- The block in single steps (`00_scope.md` R8), taken to completion, does exactly what `exec` does in one: from the state
in which a READ_DATA or WRITE_DATA has been accepted, at most `RESYNC_WINDOW + 5` steps give the state `exec` gives, where the
host does not act meanwhile; and what it does meanwhile the block's steps neither read nor change. Each step is one
transport request or the delivery; the move out of `Sent` counts with the first read (log 27). -/
def Obligations.SingleStepsAmountToTheWholeCommand : Prop :=
  (∀ (k : Transaction) (s a : State), s.Inv → s.undisturbed = true → beginTransaction k s = .next a →
    ∃ n : Nat, n ≤ s.cfg.resyncWindow + 5 ∧ Host.Core.run Sys2Proof.core n a = exec k.instr s) ∧
  (∀ (s : State) (w : World), engineStep { s with world := w } = { engineStep s with world := w })

/-! ## What does not matter -/

/-- `43_register_descriptor.md` R100: `OP_ACCESS` is carried and never read: with another access mode every instruction does
the same, the access mode being carried along. -/
def Obligations.AccessModeIsNeverRead : Prop :=
  ∀ (i : Instr) (s : State) (m : Access),
    exec i { s with ops := { s.ops with access := m } } =
      (match exec i s with
        | .next t => .next { t with ops := { t.ops with access := m } }
        | .fault f => .fault f
        | .refused r => .refused r)

/-- `10_state.md` R13: between two commands the only state that influences the next command's result is `CFG` and the
transport (with the command's operands): every other register is dead. Two legal idle states that agree on these, and on the
number free values are drawn with (log 8), give the same results, transport requests and frames, or the same refusal. That
`RES_PARAMS` keeps nothing above `RES_PLEN` is log 26. -/
def Obligations.OtherRegistersAreDeadBetweenCommands : Prop :=
  ∀ (i : Instr) (s s' : State), s.Inv → s'.Inv → s.ready = true → s'.ready = true →
    s'.cfg = s.cfg → s'.ops = s.ops → s'.transport = s.transport → s'.free = s.free →
    (i = .decode → s'.rxFrame = s.rxFrame) →
    (∀ t, exec i s = .next t → ∃ t', exec i s' = .next t' ∧ t'.res = t.res ∧ t'.transport = t.transport ∧ t'.ops = t.ops) ∧
    (∀ r, exec i s = .refused r → exec i s' = .refused r)

/-! ## The frame rows -/

/-- A frame row is the call of its rule, with the operands its frame carries (the model's reading, log 12; from
`41_codec_v1.md` R74, R77, `42_codec_v2.md` R84, R87, `44_transaction_engine.md` R102 to R105): it does exactly what the
command does on those operands. -/
def Obligations.FrameRowsAreTheirCalls : Prop :=
  ∀ s : State, s.ready = true →
    (s.cfg.version = .v1 → ∀ (id op : Byte) (ps : List Byte), ps.length ≤ 253 →
      exec (.v1Instruction id op ps) s = exec .encode { s with ops := { s.ops with
        id := id, opcode := op, plen := BitVec.ofNat 17 ps.length, pbuf := memWrite s.ops.pbuf 0 ps } }) ∧
    (s.cfg.version = .v2 → ∀ (id op : Byte) (ps : List Byte), (stuff ps).length ≤ 65532 →
      exec (.v2Instruction id op ps) s = exec .encode { s with ops := { s.ops with
        id := id, opcode := op, plen := BitVec.ofNat 17 ps.length, pbuf := memWrite s.ops.pbuf 0 ps } }) ∧
    (∀ (id e : Byte) (ps : List Byte), ps.length ≤ 253 →
      exec (.v1Status id e ps) s = exec .decode { s with bufs := { s.bufs with
        rx := memWrite s.bufs.rx 0 (encsV1 id e ps), rxlen := (encsV1 id e ps).length } }) ∧
    (∀ (id i e : Byte) (ps : List Byte), (stuff (e :: ps)).length ≤ 65532 →
      exec (.v2Status id i e ps) s = exec .decode { s with bufs := { s.bufs with
        rx := memWrite s.bufs.rx 0 (frameV2 s.cfg.crcSpan id i (stuff (e :: ps)))
        rxlen := (frameV2 s.cfg.crcSpan id i (stuff (e :: ps))).length } }) ∧
    (s.cfg.version = .v1 → ∀ (id a : Byte) (w : Width),
      exec (.readV1 id a w) s = exec .readData { s with ops := { s.ops with
        id := id, addr := a.setWidth 16, regw := widthCode w, reqw := widthCode w } }) ∧
    (s.cfg.version = .v2 → ∀ (id : Byte) (a : Word16) (w : Width),
      exec (.readV2 id a w) s = exec .readData { s with ops := { s.ops with
        id := id, addr := a, regw := widthCode w, reqw := widthCode w } }) ∧
    (s.cfg.version = .v1 → ∀ (id a : Byte) (x : Byte),
      exec (.writeV1W1 id a x) s = exec .writeData { s with ops := { s.ops with
        id := id, addr := a.setWidth 16, regw := 1, reqw := 1, value := x.setWidth 32 } }) ∧
    (s.cfg.version = .v1 → ∀ (id a : Byte) (x : Word16),
      exec (.writeV1W2 id a x) s = exec .writeData { s with ops := { s.ops with
        id := id, addr := a.setWidth 16, regw := 2, reqw := 2, value := x.setWidth 32 } }) ∧
    (s.cfg.version = .v1 → ∀ (id a : Byte) (x : Word32),
      exec (.writeV1W4 id a x) s = exec .writeData { s with ops := { s.ops with
        id := id, addr := a.setWidth 16, regw := 4, reqw := 4, value := x } }) ∧
    (s.cfg.version = .v2 → ∀ (id : Byte) (a : Word16) (x : Byte),
      exec (.writeV2W1 id a x) s = exec .writeData { s with ops := { s.ops with
        id := id, addr := a, regw := 1, reqw := 1, value := x.setWidth 32 } }) ∧
    (s.cfg.version = .v2 → ∀ (id : Byte) (a : Word16) (x : Word16),
      exec (.writeV2W2 id a x) s = exec .writeData { s with ops := { s.ops with
        id := id, addr := a, regw := 2, reqw := 2, value := x.setWidth 32 } }) ∧
    (s.cfg.version = .v2 → ∀ (id : Byte) (a : Word16) (x : Word32),
      exec (.writeV2W4 id a x) s = exec .writeData { s with ops := { s.ops with
        id := id, addr := a, regw := 4, reqw := 4, value := x } })

/-- What the frame rows leave unchanged (the row as a call is log 12): `CFG`, the host's script; of the operand registers all
but `CMD` and those the call loads; an instruction row only `TXBUF` below `TXLEN` and `PBUF` below the parameter count, a
status row only `RXBUF` below `RXLEN`, a READ or WRITE row only `TXBUF` and `RXBUF` below their lengths; the sequencer and the
transport but for READ and WRITE rows; in v1 only `CHK8` of the accumulators may change, in v2 only `CRC16` and `FFCNT`. That
`RXBUF`, and for a READ or WRITE row `TXBUF`, keeps its bytes at and above the new length is log 28. -/
def Obligations.FrameRowsLeaveTheRestAlone : Prop :=
  ∀ (i : Instr) (s t : State), s.Inv → i.version ≠ none → exec i s = .next t →
    t.cfg = s.cfg ∧ t.world = s.world ∧
    (∀ id op ps, i = .v1Instruction id op ps ∨ i = .v2Instruction id op ps →
      { t.ops with cmd := s.ops.cmd, id := s.ops.id, opcode := s.ops.opcode, plen := s.ops.plen, pbuf := s.ops.pbuf } = s.ops ∧
      (∀ a, ps.length ≤ a → memGet t.ops.pbuf a = memGet s.ops.pbuf a) ∧
      (∀ a, t.bufs.txlen ≤ a → memGet t.bufs.tx a = memGet s.bufs.tx a) ∧
      t.bufs.rx = s.bufs.rx ∧ t.bufs.rxlen = s.bufs.rxlen ∧ t.seq = s.seq ∧ t.transport = s.transport) ∧
    (i.decodes = true →
      { t.ops with cmd := s.ops.cmd } = s.ops ∧ t.bufs.tx = s.bufs.tx ∧ t.bufs.txlen = s.bufs.txlen ∧
      (∀ a, t.bufs.rxlen ≤ a → memGet t.bufs.rx a = memGet s.bufs.rx a) ∧ t.seq = s.seq ∧ t.transport = s.transport) ∧
    (i.sends = true →
      t.ops.opcode = s.ops.opcode ∧ t.ops.access = s.ops.access ∧ t.ops.plen = s.ops.plen ∧ t.ops.pbuf = s.ops.pbuf ∧
      (i.reads = true → t.ops.value = s.ops.value) ∧ (i.reads = false → t.seq.reqW = s.seq.reqW) ∧
      (∀ a, t.bufs.txlen ≤ a → memGet t.bufs.tx a = memGet s.bufs.tx a) ∧
      (∀ a, t.bufs.rxlen ≤ a → memGet t.bufs.rx a = memGet s.bufs.rx a)) ∧
    (s.cfg.version = .v1 → t.accs.crc16 = s.accs.crc16 ∧ t.accs.ffcnt = s.accs.ffcnt) ∧
    (s.cfg.version = .v2 → t.accs.chk8 = s.accs.chk8)

/-- V1.INSTRUCTION and V2.INSTRUCTION complete in an idle instance of their version and leave exactly their own frame in
`TXBUF` (from `41_codec_v1.md` R74, `42_codec_v2.md` R84, `44_transaction_engine.md` R102; the row as a call is log 12). -/
def Obligations.InstructionRowsBuildTheirOwnFrame : Prop :=
  ∀ (s : State) (id opcode : Byte) (params : List Byte), s.Inv → s.ready = true →
    (s.cfg.version = .v1 → params.length ≤ 253 →
      ∃ t, exec (.v1Instruction id opcode params) s = .next t ∧ t.txFrame = encV1 id opcode params ∧ t.res.kind = .ok ∧
        t.transport = s.transport ∧ t.bufs.rx = s.bufs.rx ∧ t.seq = s.seq) ∧
    (s.cfg.version = .v2 → (stuff params).length ≤ 65532 →
      ∃ t, exec (.v2Instruction id opcode params) s = .next t ∧ t.txFrame = encV2 s.cfg.crcSpan id opcode params ∧
        t.res.kind = .ok ∧ t.transport = s.transport ∧ t.bufs.rx = s.bufs.rx ∧ t.seq = s.seq)

/-- V1.STATUS and V2.STATUS complete in an idle instance of their version with `OK` and their own fields in the result
registers (from `41_codec_v1.md` R77, `42_codec_v2.md` R87, `44_transaction_engine.md` R103; log 12). -/
def Obligations.StatusRowsDecodeToTheirOwnFields : Prop :=
  ∀ (s : State) (id instr error : Byte) (params : List Byte), s.Inv → s.ready = true →
    (s.cfg.version = .v1 → params.length ≤ 253 →
      ∃ t, exec (.v1Status id error params) s = .next t ∧ t.res.kind = .ok ∧ t.res.id = id ∧ t.res.err = error ∧
        t.resParams = params ∧ t.transport = s.transport ∧ t.bufs.tx = s.bufs.tx ∧ t.seq = s.seq) ∧
    (s.cfg.version = .v2 → (stuff (error :: params)).length ≤ 65532 →
      ∃ t, exec (.v2Status id instr error params) s = .next t ∧ t.res.kind = .ok ∧ t.res.id = id ∧ t.res.instr = instr ∧
        t.res.err = error ∧ t.resParams = params ∧ t.transport = s.transport ∧ t.bufs.tx = s.bufs.tx ∧ t.seq = s.seq)

/-- READ.V1, READ.V2 and the six WRITE rows complete in an idle instance of their version, whatever the transport answers, and
the one frame handed to the transport is exactly the row's own (from `44_transaction_engine.md` R104, R105,
`30_encoding.md` R56; log 12). -/
def Obligations.ReadAndWriteRowsSendTheirOwnFrame : Prop :=
  ∀ (s : State) (i : Instr), s.Inv → s.ready = true → i.sends = true → i.version = some s.cfg.version →
    ∃ (t : State) (a : TxAnswer) (reads : List Exchange), exec i s = .next t ∧
      t.transport.log = s.transport.log ++ .txWrite (wordsBytes (encode s.cfg.crcSpan i)) a :: reads ∧
      (∀ e ∈ reads, e.isRead s.cfg.timeout) ∧ t.txFrame = wordsBytes (encode s.cfg.crcSpan i) ∧ t.cfg = s.cfg ∧
      t.world = s.world ∧ t.ops.opcode = s.ops.opcode ∧ t.ops.pbuf = s.ops.pbuf ∧ t.ops.plen = s.ops.plen

/-- A frame of the other version. An instruction row is refused, since an instance only ever produces frames of its own version
(`00_scope.md` R7); the refusal is the model's (log 13). A status row is a DECODE call (log 12) to the instance's own decoder
(log 13), both the model's choice; that decoder's answer is `FRAME_ERROR`: `HEADER` for a v1 frame in a v2 instance (R87),
`LENGTH` for a v2 frame in a v1 instance, whose bytes there announce LEN = 0 (R77). -/
def Obligations.FramesOfTheOtherVersionAreNotTaken : Prop :=
  ∀ s : State, s.Inv → s.ready = true →
    (∀ (i : Instr) (v : Version), i.sends = true → i.version = some v → v ≠ s.cfg.version → exec i s = .refused .foreignVersion) ∧
    (∀ id op ps, s.cfg.version = .v2 → exec (.v1Instruction id op ps) s = .refused .foreignVersion) ∧
    (∀ id op ps, s.cfg.version = .v1 → exec (.v2Instruction id op ps) s = .refused .foreignVersion) ∧
    (∀ id e ps, s.cfg.version = .v2 → ps.length ≤ 253 →
      ∃ t, exec (.v1Status id e ps) s = .next t ∧ t.res.kind = .frameError ∧ t.res.cause = .header) ∧
    (∀ id i e ps, s.cfg.version = .v1 → (stuff (e :: ps)).length ≤ 65532 →
      ∃ t, exec (.v2Status id i e ps) s = .next t ∧ t.res.kind = .frameError ∧ t.res.cause = .length)
end

