-- ==== Sys2Proof/Laws/Stuffing.lean ====
section
/-!
SUPPORT. The small lemmas of `stuffFrom` and `unstuffFrom`: one equation per case of a scan.
-/
namespace Sys2Proof.Machine

theorem isTrigger_iff (ff : BitVec 2) (d : Byte) : isTrigger ff d = true ↔ d = stuffEsc ∧ ff = 2 := by
  simp [isTrigger]

theorem stuffFrom_trigger {ff : BitVec 2} {d : Byte} (p : List Byte) (h : isTrigger ff d = true) :
    stuffFrom ff (d :: p) = d :: stuffEsc :: stuffFrom 0 p := if_pos h

theorem stuffFrom_plain {ff : BitVec 2} {d : Byte} (p : List Byte) (h : ¬ isTrigger ff d = true) :
    stuffFrom ff (d :: p) = d :: stuffFrom (ffNext ff d) p := if_neg h

theorem unstuffFrom_escaped {ff : BitVec 2} {d : Byte} (w : List Byte) (h : isTrigger ff d = true) :
    unstuffFrom ff (d :: stuffEsc :: w) = (unstuffFrom 0 w).map (d :: ·) := by
  rw [unstuffFrom, if_pos h]; simp

theorem unstuffFrom_unescaped {ff : BitVec 2} {d e : Byte} (w : List Byte) (h : isTrigger ff d = true) (he : e ≠ stuffEsc) :
    unstuffFrom ff (d :: e :: w) = .error .unstuff := by
  rw [unstuffFrom, if_pos h]; simp [he]

theorem unstuffFrom_cut {ff : BitVec 2} {d : Byte} (h : isTrigger ff d = true) : unstuffFrom ff [d] = .error .unstuff := by
  rw [unstuffFrom, if_pos h]

theorem unstuffFrom_plain {ff : BitVec 2} {d : Byte} (w : List Byte) (h : ¬ isTrigger ff d = true) :
    unstuffFrom ff (d :: w) = (unstuffFrom (ffNext ff d) w).map (d :: ·) := by
  rw [unstuffFrom.eq_def]; simp only; rw [if_neg h]

/-- Stuffing never shortens. -/
theorem length_le_stuffFrom (ff : BitVec 2) (p : List Byte) : p.length ≤ (stuffFrom ff p).length := by
  induction p generalizing ff with
  | nil => exact Nat.le_refl 0
  | cons d p ih =>
    by_cases h : isTrigger ff d = true
    · rw [stuffFrom_trigger p h]; simpa using Nat.le_succ_of_le (ih 0)
    · rw [stuffFrom_plain p h]; simpa using ih (ffNext ff d)

theorem length_le_stuff (p : List Byte) : p.length ≤ (stuff p).length := length_le_stuffFrom 0 p

/-- Stuffing at most doubles the length. -/
theorem stuff_length_le (p : List Byte) : (stuff p).length ≤ 2 * p.length := by
  suffices h : ∀ ff, (stuffFrom ff p).length ≤ 2 * p.length from h 0
  induction p with
  | nil => intro ff; simp [stuffFrom]
  | cons d p ih =>
    intro ff
    by_cases h : isTrigger ff d = true
    · rw [stuffFrom_trigger p h]; have := ih 0; simp only [List.length_cons]; omega
    · rw [stuffFrom_plain p h]; have := ih (ffNext ff d); simp only [List.length_cons]; omega

/-- A successful unstuffing starts with the region's first byte. -/
theorem unstuffFrom_cons_ne_nil {ff : BitVec 2} {d : Byte} {w : List Byte} : unstuffFrom ff (d :: w) ≠ .ok [] := by
  intro h
  have key : ∀ x : Except Cause (List Byte), x.map (d :: ·) ≠ .ok [] := by
    intro x; cases x <;> simp [Except.map]
  by_cases ht : isTrigger ff d = true
  · match w with
    | [] => rw [unstuffFrom_cut ht] at h; cases h
    | e :: w =>
      by_cases he : e = stuffEsc
      · subst he; rw [unstuffFrom_escaped w ht] at h; exact key _ h
      · rw [unstuffFrom_unescaped w ht he] at h; cases h
  · rw [unstuffFrom_plain w ht] at h; exact key _ h

/-- The matcher's count is 0, 1 or 2 (`10_state.md` R25). -/
theorem ffNext_ne_three (ff : BitVec 2) (d : Byte) : ffNext ff d ≠ 3 := by
  unfold ffNext; split <;> (try split) <;> decide

theorem stuffCount_ne_three {ff : BitVec 2} (h : ff ≠ 3) (p : List Byte) : stuffCount ff p ≠ 3 := by
  induction p generalizing ff with
  | nil => exact h
  | cons d p ih =>
    rw [stuffCount]
    split
    · exact ih (by decide)
    · exact ih (ffNext_ne_three ff d)

theorem unstuffCount_ne_three {ff : BitVec 2} (h : ff ≠ 3) (w : List Byte) : unstuffCount ff w ≠ 3 := by
  induction ff, w using unstuffCount.induct with
  | case1 ff => exact h
  | case2 ff d ht => rw [unstuffCount, if_pos ht]; exact h
  | case3 ff d ht w ih => rw [unstuffCount, if_pos ht]; simpa using ih (by decide)
  | case4 ff d ht e w he => rw [unstuffCount, if_pos ht]; simpa [he] using h
  | case5 ff d w ht ih =>
    rw [unstuffCount.eq_def]; simp only; rw [if_neg ht]
    exact ih (ffNext_ne_three ff d)

/-- Unstuffing fails only with its own cause. -/
theorem unstuffFrom_error {ff : BitVec 2} {w : List Byte} {c : Cause} (h : unstuffFrom ff w = .error c) : c = .unstuff := by
  induction ff, w using unstuffFrom.induct with
  | case1 ff => cases h
  | case2 ff d ht => rw [unstuffFrom_cut ht] at h; cases h; rfl
  | case3 ff d ht w ih =>
    rw [unstuffFrom_escaped _ ht] at h
    cases hw : unstuffFrom 0 w with
    | ok p => rw [hw] at h; cases h
    | error c' => rw [hw] at h; cases h; exact ih hw
  | case4 ff d ht e w he => rw [unstuffFrom_unescaped _ ht he] at h; cases h; rfl
  | case5 ff d w ht ih =>
    rw [unstuffFrom_plain _ ht] at h
    cases hw : unstuffFrom (ffNext ff d) w with
    | ok p => rw [hw] at h; cases h
    | error c' => rw [hw] at h; cases h; exact ih hw

end Sys2Proof.Machine
end

