-- ==== Sys2Proof/Laws/Codec.lean ====
section
/-!
SUPPORT. The byte-order helpers and the two decoders on frames taken apart byte by byte: one lemma says all a decoder tests,
in its order.
-/
namespace Sys2Proof.Machine

/-! ### Byte order -/

theorem word16_lo8_hi8 (v : Word16) : word16 (lo8 v) (hi8 v) = v := by
  unfold word16 lo8 hi8
  ext i hi
  rcases i with _|_|_|_|_|_|_|_|_|_|_|_|_|_|_|_|i <;> simp
  all_goals omega

theorem lo8_word16 (a b : Byte) : lo8 (word16 a b) = a := by
  unfold word16 lo8
  ext i hi
  rcases i with _|_|_|_|_|_|_|_|i <;> simp

theorem hi8_word16 (a b : Byte) : hi8 (word16 a b) = b := by
  unfold word16 hi8
  ext i hi
  rcases i with _|_|_|_|_|_|_|_|i <;> simp
  all_goals omega

@[simp] theorem leBytes_length (v : Word32) (n : Nat) : (leBytes v n).length = n := by
  induction n generalizing v with
  | zero => rfl
  | succ n ih => simp [leBytes, ih]

/-- One byte more at the low end. -/
theorem leValue_cons_toNat (b : Byte) (v : Word32) (hv : v.toNat < 2 ^ 24) :
    (b.setWidth 32 ||| (v <<< 8)).toNat = b.toNat + 256 * v.toNat := by
  have hb := b.isLt
  rw [BitVec.toNat_or, BitVec.toNat_shiftLeft, BitVec.toNat_setWidth, Nat.or_comm,
    Nat.mod_eq_of_lt (a := b.toNat) (by omega), Nat.mod_eq_of_lt (by rw [Nat.shiftLeft_eq]; omega),
    ← Nat.shiftLeft_add_eq_or_of_lt hb, Nat.shiftLeft_eq]
  omega

/-- `LE_VALUE` of at most four bytes as a number. -/
theorem leValue_toNat (s : List Byte) (h : s.length ≤ 4) : (leValue s).toNat =
    (byteAt s 0).toNat + 256 * (byteAt s 1).toNat + 65536 * (byteAt s 2).toNat + 16777216 * (byteAt s 3).toNat := by
  match s with
  | [] => rfl
  | [a] => have := a.isLt; simp [leValue, byteAt]; omega
  | [a, b] =>
    have := a.isLt; have := b.isLt
    have h1 := leValue_cons_toNat a (b.setWidth 32) (by simp; omega)
    simp only [leValue, byteAt]
    simp only [BitVec.zero_shiftLeft, BitVec.ofNat_eq_ofNat, BitVec.or_zero] at h1 ⊢
    rw [h1]; simp; omega
  | [a, b, c] =>
    have := a.isLt; have := b.isLt; have := c.isLt
    simp only [leValue, byteAt, BitVec.zero_shiftLeft, BitVec.ofNat_eq_ofNat, BitVec.or_zero]
    have h1 := leValue_cons_toNat b (c.setWidth 32) (by simp; omega)
    rw [leValue_cons_toNat a _ (by rw [h1]; simp; omega), h1]; simp; omega
  | [a, b, c, d] =>
    have := a.isLt; have := b.isLt; have := c.isLt; have := d.isLt
    simp only [leValue, byteAt, BitVec.zero_shiftLeft, BitVec.ofNat_eq_ofNat, BitVec.or_zero]
    have h1 := leValue_cons_toNat c (d.setWidth 32) (by simp; omega)
    have h2 := leValue_cons_toNat b _ (by rw [h1]; simp; omega)
    rw [leValue_cons_toNat a _ (by rw [h2, h1]; simp; omega), h2, h1]; simp; omega

/-! ### Frames taken apart -/

/-- The shape of a frame that is long enough for v1. -/
theorem bytes_shape_v1 (b : List Byte) (h : 6 ≤ b.length) :
    ∃ x0 x1 x2 x3 x4 ps c, b = x0 :: x1 :: x2 :: x3 :: x4 :: (ps ++ [c]) := by
  match b with
  | x0 :: x1 :: x2 :: x3 :: x4 :: rest =>
    have hne : rest ≠ [] := by intro e; subst e; simp at h
    exact ⟨x0, x1, x2, x3, x4, rest.dropLast, rest.getLast hne, by rw [List.dropLast_append_getLast]⟩
  | [] | [_] | [_, _] | [_, _, _] | [_, _, _, _] => simp at h

/-- The shape of a frame that is long enough for v2. -/
theorem bytes_shape_v2 (b : List Byte) (h : 10 ≤ b.length) :
    ∃ x0 x1 x2 x3 x4 x5 x6 x7 r c d, b = x0 :: x1 :: x2 :: x3 :: x4 :: x5 :: x6 :: x7 :: (r ++ [c, d]) := by
  match b with
  | x0 :: x1 :: x2 :: x3 :: x4 :: x5 :: x6 :: x7 :: rest =>
    have : (rest.drop (rest.length - 2)).length = 2 := by simp at h ⊢; omega
    match hd : rest.drop (rest.length - 2), this with
    | [c, d], _ =>
      exact ⟨x0, x1, x2, x3, x4, x5, x6, x7, rest.take (rest.length - 2), c, d, by rw [← hd, List.take_append_drop]⟩
  | [] | [_] | [_, _] | [_, _, _] | [_, _, _, _] | [_, _, _, _, _] | [_, _, _, _, _, _] | [_, _, _, _, _, _, _] =>
    simp at h

theorem encV1_cons (id op : Byte) (ps : List Byte) :
    encV1 id op ps = 0xFF :: 0xFF :: id :: BitVec.ofNat 8 (ps.length + 2) :: op ::
      (ps ++ [checksumV1 (id :: BitVec.ofNat 8 (ps.length + 2) :: op :: ps)]) := by
  simp [encV1, bodyV1, markV1]

theorem frameV2_cons (span : CrcSpan) (id i : Byte) (r : List Byte) :
    frameV2 span id i r = 0xFF :: 0xFF :: 0xFD :: 0x00 :: id :: lo8 (BitVec.ofNat 16 (r.length + 3)) ::
      hi8 (BitVec.ofNat 16 (r.length + 3)) :: i ::
      (r ++ [lo8 (crcV2 (crcCovered span markV2 (bodyV2 id i r))), hi8 (crcV2 (crcCovered span markV2 (bodyV2 id i r)))]) := by
  simp [frameV2, markV2, bodyV2, crcBytes]

theorem encV1_length (id op : Byte) (ps : List Byte) : (encV1 id op ps).length = ps.length + 6 := by
  simp [encV1_cons]

theorem frameV2_length (span : CrcSpan) (id i : Byte) (r : List Byte) : (frameV2 span id i r).length = r.length + 10 := by
  simp [frameV2_cons]

/-- `DEC_V1` on a frame of at least six bytes. -/
theorem decV1_cons (x0 x1 x2 x3 x4 : Byte) (ps : List Byte) (c : Byte) :
    decV1 (x0 :: x1 :: x2 :: x3 :: x4 :: (ps ++ [c])) =
      if x0 ≠ 0xFF ∨ x1 ≠ 0xFF then .error .header
      else if x3.toNat < 2 then .error .length
      else if ps.length + 6 ≠ x3.toNat + 4 then .error .length
      else if checksumV1 (x2 :: x3 :: x4 :: ps) ≠ c then .error .check
      else .ok { id := x2, instr := none, error := x4, params := ps } := by
  have e1 : slice (x0 :: x1 :: x2 :: x3 :: x4 :: (ps ++ [c])) 2 (ps.length + 5) = x2 :: x3 :: x4 :: ps := by simp [slice]
  have e2 : slice (x0 :: x1 :: x2 :: x3 :: x4 :: (ps ++ [c])) 5 (ps.length + 5) = ps := by simp [slice]
  have e3 : byteAt (x0 :: x1 :: x2 :: x3 :: x4 :: (ps ++ [c])) (ps.length + 5) = c := by
    simp [byteAt, List.getD_eq_getElem?_getD]
  have hl : (x0 :: x1 :: x2 :: x3 :: x4 :: (ps ++ [c])).length = ps.length + 6 := by simp
  unfold decV1
  rw [hl]
  simp only [show ps.length + 6 - 1 = ps.length + 5 by omega, e1, e2, e3]
  rw [if_neg (c := ps.length + 6 < 4) (by omega)]
  have : ¬ ps.length + 6 < 2 := by omega
  simp [byteAt, this, minStatusLen]

/-- What `DEC_V1` accepts is long enough. -/
theorem decV1_ok_length {b : List Byte} {st : StatusPacket} (h : decV1 b = .ok st) : 6 ≤ b.length := by
  unfold decV1 at h
  split at h; · cases h
  split at h; · cases h
  split at h; · cases h
  split at h; · cases h
  have : minStatusLen .v1 = 2 := rfl
  omega

/-- The checks of `DEC_V2` on a frame of at least ten bytes. -/
theorem parseV2_cons (span : CrcSpan) (mn : Nat) (x0 x1 x2 x3 x4 x5 x6 x7 : Byte) (r : List Byte) (c d : Byte) :
    parseV2 span mn (x0 :: x1 :: x2 :: x3 :: x4 :: x5 :: x6 :: x7 :: (r ++ [c, d])) =
      if x0 ≠ 0xFF ∨ x1 ≠ 0xFF ∨ x2 ≠ 0xFD ∨ x3 ≠ 0 then .error .header
      else if (word16 x5 x6).toNat < mn then .error .length
      else if r.length + 10 ≠ (word16 x5 x6).toNat + 7 then .error .length
      else if crcV2 (crcCovered span [x0, x1, x2, x3] (x4 :: x5 :: x6 :: x7 :: r)) ≠ word16 c d then .error .check
      else unstuff r := by
  have hl : (x0 :: x1 :: x2 :: x3 :: x4 :: x5 :: x6 :: x7 :: (r ++ [c, d])).length = r.length + 10 := by simp
  have e1 : spanOf span (x0 :: x1 :: x2 :: x3 :: x4 :: x5 :: x6 :: x7 :: (r ++ [c, d])) =
      crcCovered span [x0, x1, x2, x3] (x4 :: x5 :: x6 :: x7 :: r) := by
    unfold spanOf crcCovered
    rw [hl]
    cases span <;> simp [slice]
  have e2 : slice (x0 :: x1 :: x2 :: x3 :: x4 :: x5 :: x6 :: x7 :: (r ++ [c, d])) 8 (r.length + 8) = r := by simp [slice]
  have e3 : byteAt (x0 :: x1 :: x2 :: x3 :: x4 :: x5 :: x6 :: x7 :: (r ++ [c, d])) (r.length + 8) = c := by
    simp [byteAt, List.getD_eq_getElem?_getD]
  have e4 : byteAt (x0 :: x1 :: x2 :: x3 :: x4 :: x5 :: x6 :: x7 :: (r ++ [c, d])) (r.length + 9) = d := by
    simp [byteAt, List.getD_eq_getElem?_getD]
  unfold parseV2
  rw [hl, e1]
  simp only [show r.length + 10 - 2 = r.length + 8 by omega, show r.length + 10 - 1 = r.length + 9 by omega, e2, e3, e4]
  rw [if_neg (c := r.length + 10 < 7) (by omega)]
  have : ¬ r.length + 10 < 4 := by omega
  simp [byteAt, this]

/-- What the checks of `DEC_V2` pass is long enough. -/
theorem parseV2_ok_length {span : CrcSpan} {mn : Nat} (hm : 3 ≤ mn) {b u : List Byte} (h : parseV2 span mn b = .ok u) :
    10 ≤ b.length := by
  unfold parseV2 at h
  split at h; · cases h
  split at h; · cases h
  split at h; · cases h
  split at h; · cases h
  omega

theorem stuff_cons_length_pos (e : Byte) (ps : List Byte) : 1 ≤ (stuff (e :: ps)).length := by
  have := length_le_stuff (e :: ps)
  simp only [List.length_cons] at this
  omega

/-- Bytes that begin with the header do not fail with HEADER. -/
theorem decFrame_mark_ne_header (v : Version) (span : CrcSpan) (x : List Byte) :
    decFrame v span (mark v ++ x) ≠ .error .header := by
  intro h
  cases v with
  | v1 =>
    have h' : decV1 (0xFF :: 0xFF :: x) = .error .header := h
    unfold decV1 at h'
    rw [if_neg (by simp [byteAt])] at h'
    split at h'; · cases h'
    split at h'; · cases h'
    split at h'; · cases h'
    split at h' <;> cases h'
  | v2 =>
    have h' : decV2 span (0xFF :: 0xFF :: 0xFD :: 0x00 :: x) = .error .header := h
    unfold decV2 at h'
    split at h'
    · rename_i hp
      cases h'
      unfold parseV2 at hp
      rw [if_neg (by simp [byteAt])] at hp
      split at hp; · cases hp
      split at hp; · cases hp
      split at hp; · cases hp
      split at hp; · cases hp
      exact absurd (unstuffFrom_error hp) (by simp)
    · cases h'
    · cases h'

/-! ### Domains -/

theorem inDomainV1_iff (ps : List Byte) : inDomainV1 ps = true ↔ ps.length ≤ 253 := decide_eq_true_iff

theorem inDomainV2_iff (ps : List Byte) : inDomainV2 ps = true ↔ (stuff ps).length ≤ 65532 := decide_eq_true_iff

end Sys2Proof.Machine
end

