-- ==== Sys2Proof/Laws/Memory.lean ====
section
/-!
SUPPORT. The laws of a buffer memory: every operation keeps the canonical form, a read after a write gives what was written,
and a write leaves every other index alone.
-/
namespace Sys2Proof.Machine

theorem memWfFrom_mono {lo lo' : Nat} {m : Memory} (hle : lo' ≤ lo) (h : memWfFrom lo m = true) : memWfFrom lo' m = true := by
  cases m with
  | nil => rfl
  | cons c m =>
    simp only [memWfFrom, Bool.and_eq_true, decide_eq_true_eq] at h ⊢
    exact ⟨⟨by omega, h.1.2⟩, h.2⟩

theorem memGet_below {lo : Nat} {m : Memory} (h : memWfFrom lo m = true) {i : Nat} (hi : i < lo) : memGet m i = memDefault := by
  induction m generalizing lo with
  | nil => rfl
  | cons c m ih =>
    simp only [memWfFrom, Bool.and_eq_true, decide_eq_true_eq] at h
    simp only [memGet]
    rw [if_neg (by omega)]
    exact ih h.2 (by omega)

theorem memSet_wfFrom {lo : Nat} {m : Memory} (h : memWfFrom lo m = true) {i : Nat} (hi : lo ≤ i) (b : Byte) :
    memWfFrom lo (memSet m i b) = true := by
  induction m generalizing lo with
  | nil =>
    simp only [memSet]
    split <;> simp_all [memWfFrom]
  | cons c m ih =>
    obtain ⟨a, x⟩ := c
    simp only [memWfFrom, Bool.and_eq_true, decide_eq_true_eq] at h
    simp only [memSet]
    split
    · split
      · simp [memWfFrom, h]
      · rename_i hlt hb
        simp only [memWfFrom, Bool.and_eq_true, decide_eq_true_eq]
        exact ⟨⟨hi, hb⟩, ⟨by omega, h.1.2⟩, h.2⟩
    · split
      · split
        · exact memWfFrom_mono (by omega) h.2
        · simp_all [memWfFrom]
      · simp only [memWfFrom, Bool.and_eq_true, decide_eq_true_eq]
        exact ⟨h.1, ih h.2 (by omega)⟩

/-- A write of one byte keeps the canonical form. -/
theorem memSet_wf {m : Memory} (h : Memory.wf m = true) (i : Nat) (b : Byte) : Memory.wf (memSet m i b) = true :=
  memSet_wfFrom h (Nat.zero_le i) b

/-- A write of bytes keeps the canonical form. -/
theorem memWrite_wf {m : Memory} (h : Memory.wf m = true) (i : Nat) (bs : List Byte) : Memory.wf (memWrite m i bs) = true := by
  induction bs generalizing m i with
  | nil => exact h
  | cons b bs ih => exact ih (memSet_wf h i b) (i + 1)

theorem memGet_memSet_from {lo : Nat} {m : Memory} (h : memWfFrom lo m = true) (i j : Nat) (b : Byte) :
    memGet (memSet m i b) j = if j = i then b else memGet m j := by
  induction m generalizing lo with
  | nil =>
    by_cases hji : j = i
    · subst hji
      by_cases hb : b = memDefault <;> simp [memSet, memGet, hb]
    · by_cases hb : b = memDefault <;> simp [memSet, memGet, hb, hji, Ne.symm hji]
  | cons c m ih =>
    obtain ⟨a, x⟩ := c
    simp only [memWfFrom, Bool.and_eq_true, decide_eq_true_eq] at h
    simp only [memSet]
    split
    · rename_i hlt
      have hbelow : memGet m i = memDefault := memGet_below h.2 (by omega)
      split
      · simp only [memGet]
        by_cases hji : j = i
        · subst hji; rw [if_neg (by omega), if_pos rfl, hbelow]; simp_all
        · rw [if_neg hji]
      · simp only [memGet]
        by_cases hji : j = i
        · subst hji; simp
        · rw [if_neg (Ne.symm hji), if_neg hji]
    · split
      · rename_i hia
        subst hia
        have hbelow : memGet m i = memDefault := memGet_below h.2 (by omega)
        split
        · simp only [memGet]
          by_cases hji : j = i
          · subst hji; rw [if_pos rfl, hbelow]; simp_all
          · rw [if_neg hji, if_neg (Ne.symm hji)]
        · simp only [memGet]
          by_cases hji : j = i
          · subst hji; simp
          · rw [if_neg (Ne.symm hji), if_neg hji, if_neg (Ne.symm hji)]
      · simp only [memGet]
        by_cases hja : a = j
        · subst hja; rw [if_pos rfl, if_neg (by omega)]; simp
        · rw [if_neg hja, if_neg hja]; exact ih h.2

/-- The byte written reads back; every other index reads as before. -/
theorem memGet_memSet {m : Memory} (h : Memory.wf m = true) (i j : Nat) (b : Byte) :
    memGet (memSet m i b) j = if j = i then b else memGet m j := memGet_memSet_from h i j b

/-- A write of bytes leaves every index outside them alone. -/
theorem memGet_memWrite_outside {m : Memory} (h : Memory.wf m = true) (i : Nat) (bs : List Byte) {j : Nat}
    (hj : j < i ∨ i + bs.length ≤ j) : memGet (memWrite m i bs) j = memGet m j := by
  induction bs generalizing m i with
  | nil => rfl
  | cons b bs ih =>
    simp only [List.length_cons] at hj
    rw [memWrite, ih (memSet_wf h i b) (i + 1) (by omega), memGet_memSet h, if_neg (by omega)]

/-- The bytes written read back. -/
theorem memGet_memWrite_inside {m : Memory} (h : Memory.wf m = true) (i : Nat) (bs : List Byte) {k : Nat} (hk : k < bs.length) :
    memGet (memWrite m i bs) (i + k) = bs[k] := by
  induction bs generalizing m i k with
  | nil => simp at hk
  | cons b bs ih =>
    cases k with
    | zero =>
      rw [memWrite, memGet_memWrite_outside (memSet_wf h i b) _ _ (by omega), memGet_memSet h, if_pos (by omega)]
      rfl
    | succ k =>
      have := ih (memSet_wf h i b) (i + 1) (k := k) (by simpa using hk)
      rw [memWrite, show i + (k + 1) = i + 1 + k by omega, this]
      simp

/-- `MemRead` in terms of single bytes. -/
theorem memRead_eq_map (m : Memory) (i n : Nat) : memRead m i n = (List.range n).map (fun k => memGet m (i + k)) := by
  induction n generalizing i with
  | zero => rfl
  | succ n ih =>
    rw [memRead, ih, List.range_succ_eq_map]
    simp [Function.comp_def, Nat.add_assoc, Nat.add_comm 1]

@[simp] theorem memRead_length (m : Memory) (i n : Nat) : (memRead m i n).length = n := by
  simp [memRead_eq_map]

/-- `MemRead` of what `MemWrite` wrote gives it back (`00_scope.md` R12). -/
theorem memRead_memWrite {m : Memory} (h : Memory.wf m = true) (i : Nat) (bs : List Byte) :
    memRead (memWrite m i bs) i bs.length = bs := by
  rw [memRead_eq_map]
  apply List.ext_getElem
  · simp
  · intro k h1 h2
    simp only [List.getElem_map, List.getElem_range]
    exact memGet_memWrite_inside h i bs h2

end Sys2Proof.Machine
end

