-- ==== Sys2Proof/Laws/State.lean ====
section
/-!
SUPPORT. One lemma per field of `State` per update: what each shared operation changes and that it leaves the rest alone.
-/
namespace Sys2Proof.Machine

/-! ### `setTxn` -/

@[simp] theorem setTxn_cfg (s : State) (t : TxnState) : (s.setTxn t).cfg = s.cfg := rfl
@[simp] theorem setTxn_ops (s : State) (t : TxnState) : (s.setTxn t).ops = s.ops := rfl
@[simp] theorem setTxn_res (s : State) (t : TxnState) : (s.setTxn t).res = s.res := rfl
@[simp] theorem setTxn_bufs (s : State) (t : TxnState) : (s.setTxn t).bufs = s.bufs := rfl
@[simp] theorem setTxn_seq (s : State) (t : TxnState) : (s.setTxn t).seq = { s.seq with txn := t } := rfl
@[simp] theorem setTxn_flags (s : State) (t : TxnState) : (s.setTxn t).flags = s.flags := rfl
@[simp] theorem setTxn_accs (s : State) (t : TxnState) : (s.setTxn t).accs = s.accs := rfl
@[simp] theorem setTxn_transport (s : State) (t : TxnState) : (s.setTxn t).transport = s.transport := rfl
@[simp] theorem setTxn_world (s : State) (t : TxnState) : (s.setTxn t).world = s.world := rfl
@[simp] theorem setTxn_free (s : State) (t : TxnState) : (s.setTxn t).free = s.free := rfl

/-! ### `setPhase` -/

@[simp] theorem setPhase_cfg (s : State) (p : Phase) : (s.setPhase p).cfg = s.cfg := rfl
@[simp] theorem setPhase_ops (s : State) (p : Phase) : (s.setPhase p).ops = s.ops := rfl
@[simp] theorem setPhase_res (s : State) (p : Phase) : (s.setPhase p).res = s.res := rfl
@[simp] theorem setPhase_bufs (s : State) (p : Phase) : (s.setPhase p).bufs = s.bufs := rfl
@[simp] theorem setPhase_seq (s : State) (p : Phase) : (s.setPhase p).seq = { s.seq with phase := p } := rfl
@[simp] theorem setPhase_flags (s : State) (p : Phase) : (s.setPhase p).flags = s.flags := rfl
@[simp] theorem setPhase_accs (s : State) (p : Phase) : (s.setPhase p).accs = s.accs := rfl
@[simp] theorem setPhase_transport (s : State) (p : Phase) : (s.setPhase p).transport = s.transport := rfl
@[simp] theorem setPhase_world (s : State) (p : Phase) : (s.setPhase p).world = s.world := rfl
@[simp] theorem setPhase_free (s : State) (p : Phase) : (s.setPhase p).free = s.free := rfl

/-! ### `setCmd` -/

@[simp] theorem setCmd_cfg (s : State) (c : BitVec 3) : (s.setCmd c).cfg = s.cfg := rfl
@[simp] theorem setCmd_ops (s : State) (c : BitVec 3) : (s.setCmd c).ops = { s.ops with cmd := c } := rfl
@[simp] theorem setCmd_res (s : State) (c : BitVec 3) : (s.setCmd c).res = s.res := rfl
@[simp] theorem setCmd_bufs (s : State) (c : BitVec 3) : (s.setCmd c).bufs = s.bufs := rfl
@[simp] theorem setCmd_seq (s : State) (c : BitVec 3) : (s.setCmd c).seq = s.seq := rfl
@[simp] theorem setCmd_flags (s : State) (c : BitVec 3) : (s.setCmd c).flags = s.flags := rfl
@[simp] theorem setCmd_accs (s : State) (c : BitVec 3) : (s.setCmd c).accs = s.accs := rfl
@[simp] theorem setCmd_transport (s : State) (c : BitVec 3) : (s.setCmd c).transport = s.transport := rfl
@[simp] theorem setCmd_world (s : State) (c : BitVec 3) : (s.setCmd c).world = s.world := rfl
@[simp] theorem setCmd_free (s : State) (c : BitVec 3) : (s.setCmd c).free = s.free := rfl

/-! ### `accept` -/

@[simp] theorem accept_cfg (s : State) : s.accept.cfg = s.cfg := rfl
@[simp] theorem accept_ops (s : State) : s.accept.ops = s.ops := rfl
@[simp] theorem accept_res (s : State) : s.accept.res = s.res := rfl
@[simp] theorem accept_bufs (s : State) : s.accept.bufs = s.bufs := rfl
@[simp] theorem accept_seq (s : State) : s.accept.seq = s.seq := rfl
@[simp] theorem accept_flags (s : State) : s.accept.flags = Flags.accepted := rfl
@[simp] theorem accept_accs (s : State) : s.accept.accs = s.accs := rfl
@[simp] theorem accept_transport (s : State) : s.accept.transport = s.transport := rfl
@[simp] theorem accept_world (s : State) : s.accept.world = s.world := rfl
@[simp] theorem accept_free (s : State) : s.accept.free = s.free := rfl

/-! ### `storeTx` -/

@[simp] theorem storeTx_cfg (s : State) (f : List Byte) : (s.storeTx f).cfg = s.cfg := rfl
@[simp] theorem storeTx_ops (s : State) (f : List Byte) : (s.storeTx f).ops = s.ops := rfl
@[simp] theorem storeTx_res (s : State) (f : List Byte) : (s.storeTx f).res = s.res := rfl
@[simp] theorem storeTx_bufs (s : State) (f : List Byte) : (s.storeTx f).bufs = { s.bufs with tx := memWrite s.bufs.tx 0 f, txlen := f.length, txEncoded := false } := rfl
@[simp] theorem storeTx_seq (s : State) (f : List Byte) : (s.storeTx f).seq = s.seq := rfl
@[simp] theorem storeTx_flags (s : State) (f : List Byte) : (s.storeTx f).flags = s.flags := rfl
@[simp] theorem storeTx_accs (s : State) (f : List Byte) : (s.storeTx f).accs = s.accs := rfl
@[simp] theorem storeTx_transport (s : State) (f : List Byte) : (s.storeTx f).transport = s.transport := rfl
@[simp] theorem storeTx_world (s : State) (f : List Byte) : (s.storeTx f).world = s.world := rfl
@[simp] theorem storeTx_free (s : State) (f : List Byte) : (s.storeTx f).free = s.free := rfl

/-! ### `storeRx` -/

@[simp] theorem storeRx_cfg (s : State) (f : List Byte) : (s.storeRx f).cfg = s.cfg := rfl
@[simp] theorem storeRx_ops (s : State) (f : List Byte) : (s.storeRx f).ops = s.ops := rfl
@[simp] theorem storeRx_res (s : State) (f : List Byte) : (s.storeRx f).res = s.res := rfl
@[simp] theorem storeRx_bufs (s : State) (f : List Byte) : (s.storeRx f).bufs = { s.bufs with rx := memWrite s.bufs.rx 0 f, rxlen := f.length } := rfl
@[simp] theorem storeRx_seq (s : State) (f : List Byte) : (s.storeRx f).seq = s.seq := rfl
@[simp] theorem storeRx_flags (s : State) (f : List Byte) : (s.storeRx f).flags = s.flags := rfl
@[simp] theorem storeRx_accs (s : State) (f : List Byte) : (s.storeRx f).accs = s.accs := rfl
@[simp] theorem storeRx_transport (s : State) (f : List Byte) : (s.storeRx f).transport = s.transport := rfl
@[simp] theorem storeRx_world (s : State) (f : List Byte) : (s.storeRx f).world = s.world := rfl
@[simp] theorem storeRx_free (s : State) (f : List Byte) : (s.storeRx f).free = s.free := rfl

/-! ### `giveTx` -/

@[simp] theorem giveTx_cfg (s : State) : s.giveTx.cfg = s.cfg := rfl
@[simp] theorem giveTx_ops (s : State) : s.giveTx.ops = s.ops := rfl
@[simp] theorem giveTx_res (s : State) : s.giveTx.res = s.res := rfl
@[simp] theorem giveTx_seq (s : State) : s.giveTx.seq = s.seq := rfl
@[simp] theorem giveTx_flags (s : State) : s.giveTx.flags = s.flags := rfl
@[simp] theorem giveTx_accs (s : State) : s.giveTx.accs = s.accs := rfl
@[simp] theorem giveTx_transport (s : State) : s.giveTx.transport = s.transport := rfl
@[simp] theorem giveTx_world (s : State) : s.giveTx.world = s.world := rfl
@[simp] theorem giveTx_free (s : State) : s.giveTx.free = s.free := rfl
@[simp] theorem giveTx_bufs (s : State) : s.giveTx.bufs = { s.bufs with txEncoded := true } := rfl

/-! ### `buildFrame` -/

@[simp] theorem buildFrame_cfg (s : State) (id op : Byte) (ps : List Byte) : (s.buildFrame id op ps).cfg = s.cfg := rfl
@[simp] theorem buildFrame_ops (s : State) (id op : Byte) (ps : List Byte) : (s.buildFrame id op ps).ops = s.ops := rfl
@[simp] theorem buildFrame_res (s : State) (id op : Byte) (ps : List Byte) : (s.buildFrame id op ps).res = s.res := rfl
@[simp] theorem buildFrame_bufs (s : State) (id op : Byte) (ps : List Byte) : (s.buildFrame id op ps).bufs = { s.bufs with tx := memWrite s.bufs.tx 0 (encFrame s.cfg.version s.cfg.crcSpan id op ps), txlen := (encFrame s.cfg.version s.cfg.crcSpan id op ps).length, txEncoded := false } := rfl
@[simp] theorem buildFrame_seq (s : State) (id op : Byte) (ps : List Byte) : (s.buildFrame id op ps).seq = s.seq := rfl
@[simp] theorem buildFrame_flags (s : State) (id op : Byte) (ps : List Byte) : (s.buildFrame id op ps).flags = s.flags := rfl
@[simp] theorem buildFrame_accs (s : State) (id op : Byte) (ps : List Byte) : (s.buildFrame id op ps).accs = encAccs s.cfg id op ps s.accs := rfl
@[simp] theorem buildFrame_transport (s : State) (id op : Byte) (ps : List Byte) : (s.buildFrame id op ps).transport = s.transport := rfl
@[simp] theorem buildFrame_world (s : State) (id op : Byte) (ps : List Byte) : (s.buildFrame id op ps).world = s.world := rfl
@[simp] theorem buildFrame_free (s : State) (id op : Byte) (ps : List Byte) : (s.buildFrame id op ps).free = s.free := rfl

/-! ### `decodeRx` -/

@[simp] theorem decodeRx_cfg (s : State) : s.decodeRx.2.cfg = s.cfg := rfl
@[simp] theorem decodeRx_ops (s : State) : s.decodeRx.2.ops = s.ops := rfl
@[simp] theorem decodeRx_res (s : State) : s.decodeRx.2.res = s.res := rfl
@[simp] theorem decodeRx_bufs (s : State) : s.decodeRx.2.bufs = s.bufs := rfl
@[simp] theorem decodeRx_seq (s : State) : s.decodeRx.2.seq = s.seq := rfl
@[simp] theorem decodeRx_flags (s : State) : s.decodeRx.2.flags = s.flags := rfl
@[simp] theorem decodeRx_accs (s : State) : s.decodeRx.2.accs = decAccs s.cfg s.rxFrame s.accs := rfl
@[simp] theorem decodeRx_transport (s : State) : s.decodeRx.2.transport = s.transport := rfl
@[simp] theorem decodeRx_world (s : State) : s.decodeRx.2.world = s.world := rfl
@[simp] theorem decodeRx_free (s : State) : s.decodeRx.2.free = s.free := rfl

/-! ### `deliver` -/

@[simp] theorem deliver_cfg (r : Result) (s : State) : (deliver r s).cfg = s.cfg := rfl
@[simp] theorem deliver_ops (r : Result) (s : State) : (deliver r s).ops = s.ops := rfl
@[simp] theorem deliver_res (r : Result) (s : State) : (deliver r s).res = resultRegs s.free r := rfl
@[simp] theorem deliver_bufs (r : Result) (s : State) : (deliver r s).bufs = s.bufs := rfl
@[simp] theorem deliver_seq (r : Result) (s : State) : (deliver r s).seq = { s.seq with txn := .idle, phase := .rest } := rfl
@[simp] theorem deliver_flags (r : Result) (s : State) : (deliver r s).flags = Flags.completed := rfl
@[simp] theorem deliver_accs (r : Result) (s : State) : (deliver r s).accs = s.accs := rfl
@[simp] theorem deliver_transport (r : Result) (s : State) : (deliver r s).transport = s.transport := rfl
@[simp] theorem deliver_world (r : Result) (s : State) : (deliver r s).world = s.world := rfl
@[simp] theorem deliver_free (r : Result) (s : State) : (deliver r s).free = s.free + 1 := rfl

/-! ### `txWrite` -/

@[simp] theorem txWrite_cfg (s : State) (f : List Byte) : (s.txWrite f).2.cfg = s.cfg := rfl
@[simp] theorem txWrite_ops (s : State) (f : List Byte) : (s.txWrite f).2.ops = s.ops := rfl
@[simp] theorem txWrite_res (s : State) (f : List Byte) : (s.txWrite f).2.res = s.res := rfl
@[simp] theorem txWrite_bufs (s : State) (f : List Byte) : (s.txWrite f).2.bufs = s.bufs := rfl
@[simp] theorem txWrite_seq (s : State) (f : List Byte) : (s.txWrite f).2.seq = s.seq := rfl
@[simp] theorem txWrite_flags (s : State) (f : List Byte) : (s.txWrite f).2.flags = s.flags := rfl
@[simp] theorem txWrite_accs (s : State) (f : List Byte) : (s.txWrite f).2.accs = s.accs := rfl
@[simp] theorem txWrite_transport (s : State) (f : List Byte) : (s.txWrite f).2.transport = (s.transport.write f).2 := rfl
@[simp] theorem txWrite_world (s : State) (f : List Byte) : (s.txWrite f).2.world = s.world := rfl
@[simp] theorem txWrite_free (s : State) (f : List Byte) : (s.txWrite f).2.free = s.free := rfl

/-! ### `rxRead` -/

@[simp] theorem rxRead_cfg (s : State) (n : Nat) : (s.rxRead n).2.cfg = s.cfg := rfl
@[simp] theorem rxRead_ops (s : State) (n : Nat) : (s.rxRead n).2.ops = s.ops := rfl
@[simp] theorem rxRead_res (s : State) (n : Nat) : (s.rxRead n).2.res = s.res := rfl
@[simp] theorem rxRead_bufs (s : State) (n : Nat) : (s.rxRead n).2.bufs = s.bufs := rfl
@[simp] theorem rxRead_seq (s : State) (n : Nat) : (s.rxRead n).2.seq = s.seq := rfl
@[simp] theorem rxRead_flags (s : State) (n : Nat) : (s.rxRead n).2.flags = s.flags := rfl
@[simp] theorem rxRead_accs (s : State) (n : Nat) : (s.rxRead n).2.accs = s.accs := rfl
@[simp] theorem rxRead_transport (s : State) (n : Nat) : (s.rxRead n).2.transport = (s.transport.read n s.seq.deadline).2 := rfl
@[simp] theorem rxRead_world (s : State) (n : Nat) : (s.rxRead n).2.world = s.world := rfl
@[simp] theorem rxRead_free (s : State) (n : Nat) : (s.rxRead n).2.free = s.free := rfl

/-! ### `startReceive` -/

@[simp] theorem startReceive_cfg (s : State) : s.startReceive.cfg = s.cfg := rfl
@[simp] theorem startReceive_ops (s : State) : s.startReceive.ops = s.ops := rfl
@[simp] theorem startReceive_res (s : State) : s.startReceive.res = s.res := rfl
@[simp] theorem startReceive_bufs (s : State) : s.startReceive.bufs = s.bufs := rfl
@[simp] theorem startReceive_seq (s : State) : s.startReceive.seq = { s.seq with txn := .awaitingResponse, deadline := s.cfg.timeout } := rfl
@[simp] theorem startReceive_flags (s : State) : s.startReceive.flags = s.flags := rfl
@[simp] theorem startReceive_accs (s : State) : s.startReceive.accs = s.accs := rfl
@[simp] theorem startReceive_transport (s : State) : s.startReceive.transport = s.transport := rfl
@[simp] theorem startReceive_world (s : State) : s.startReceive.world = s.world := rfl
@[simp] theorem startReceive_free (s : State) : s.startReceive.free = s.free := rfl

/-! ### `openHunt` -/

@[simp] theorem openHunt_cfg (s : State) (w : List Byte) : (s.openHunt w).cfg = s.cfg := rfl
@[simp] theorem openHunt_ops (s : State) (w : List Byte) : (s.openHunt w).ops = s.ops := rfl
@[simp] theorem openHunt_res (s : State) (w : List Byte) : (s.openHunt w).res = s.res := rfl
@[simp] theorem openHunt_bufs (s : State) (w : List Byte) : (s.openHunt w).bufs = s.bufs := rfl
@[simp] theorem openHunt_seq (s : State) (w : List Byte) : (s.openHunt w).seq = { s.seq with hunt := w, resyncCnt := 0 } := rfl
@[simp] theorem openHunt_flags (s : State) (w : List Byte) : (s.openHunt w).flags = s.flags := rfl
@[simp] theorem openHunt_accs (s : State) (w : List Byte) : (s.openHunt w).accs = s.accs := rfl
@[simp] theorem openHunt_transport (s : State) (w : List Byte) : (s.openHunt w).transport = s.transport := rfl
@[simp] theorem openHunt_world (s : State) (w : List Byte) : (s.openHunt w).world = s.world := rfl
@[simp] theorem openHunt_free (s : State) (w : List Byte) : (s.openHunt w).free = s.free := rfl

/-! ### `slideHunt` -/

@[simp] theorem slideHunt_cfg (s : State) (d : List Byte) : (s.slideHunt d).cfg = s.cfg := rfl
@[simp] theorem slideHunt_ops (s : State) (d : List Byte) : (s.slideHunt d).ops = s.ops := rfl
@[simp] theorem slideHunt_res (s : State) (d : List Byte) : (s.slideHunt d).res = s.res := rfl
@[simp] theorem slideHunt_bufs (s : State) (d : List Byte) : (s.slideHunt d).bufs = s.bufs := rfl
@[simp] theorem slideHunt_seq (s : State) (d : List Byte) : (s.slideHunt d).seq = { s.seq with hunt := s.seq.hunt.drop 1 ++ d, resyncCnt := s.seq.resyncCnt + 1 } := rfl
@[simp] theorem slideHunt_flags (s : State) (d : List Byte) : (s.slideHunt d).flags = s.flags := rfl
@[simp] theorem slideHunt_accs (s : State) (d : List Byte) : (s.slideHunt d).accs = s.accs := rfl
@[simp] theorem slideHunt_transport (s : State) (d : List Byte) : (s.slideHunt d).transport = s.transport := rfl
@[simp] theorem slideHunt_world (s : State) (d : List Byte) : (s.slideHunt d).world = s.world := rfl
@[simp] theorem slideHunt_free (s : State) (d : List Byte) : (s.slideHunt d).free = s.free := rfl

/-! ### `finish` -/

@[simp] theorem finish_cfg (r : Result × TxnState) (s : State) : (finish r s).cfg = s.cfg := rfl
@[simp] theorem finish_ops (r : Result × TxnState) (s : State) : (finish r s).ops = s.ops := rfl
@[simp] theorem finish_res (r : Result × TxnState) (s : State) : (finish r s).res = resultRegs s.free r.1 := rfl
@[simp] theorem finish_bufs (r : Result × TxnState) (s : State) : (finish r s).bufs = s.bufs := rfl
@[simp] theorem finish_seq (r : Result × TxnState) (s : State) : (finish r s).seq = { s.seq with txn := .idle, phase := .rest } := rfl
@[simp] theorem finish_flags (r : Result × TxnState) (s : State) : (finish r s).flags = Flags.completed := rfl
@[simp] theorem finish_accs (r : Result × TxnState) (s : State) : (finish r s).accs = s.accs := rfl
@[simp] theorem finish_transport (r : Result × TxnState) (s : State) : (finish r s).transport = s.transport := rfl
@[simp] theorem finish_world (r : Result × TxnState) (s : State) : (finish r s).world = s.world := rfl
@[simp] theorem finish_free (r : Result × TxnState) (s : State) : (finish r s).free = s.free + 1 := rfl

/-! ### `terminate` -/

@[simp] theorem terminate_cfg (s : State) (r : Result × TxnState) : (s.terminate r).cfg = s.cfg := rfl
@[simp] theorem terminate_ops (s : State) (r : Result × TxnState) : (s.terminate r).ops = s.ops := rfl
@[simp] theorem terminate_res (s : State) (r : Result × TxnState) : (s.terminate r).res = s.res := rfl
@[simp] theorem terminate_bufs (s : State) (r : Result × TxnState) : (s.terminate r).bufs = s.bufs := rfl
@[simp] theorem terminate_seq (s : State) (r : Result × TxnState) : (s.terminate r).seq = { s.seq with txn := r.2, phase := .deliver r.1 } := rfl
@[simp] theorem terminate_flags (s : State) (r : Result × TxnState) : (s.terminate r).flags = s.flags := rfl
@[simp] theorem terminate_accs (s : State) (r : Result × TxnState) : (s.terminate r).accs = s.accs := rfl
@[simp] theorem terminate_transport (s : State) (r : Result × TxnState) : (s.terminate r).transport = s.transport := rfl
@[simp] theorem terminate_world (s : State) (r : Result × TxnState) : (s.terminate r).world = s.world := rfl
@[simp] theorem terminate_free (s : State) (r : Result × TxnState) : (s.terminate r).free = s.free := rfl

/-! ### `latchRequest` -/

@[simp] theorem latchRequest_cfg (s : State) (k : Transaction) : (s.latchRequest k).cfg = s.cfg := by cases k <;> rfl
@[simp] theorem latchRequest_ops (s : State) (k : Transaction) : (s.latchRequest k).ops = s.ops := by cases k <;> rfl
@[simp] theorem latchRequest_res (s : State) (k : Transaction) : (s.latchRequest k).res = s.res := by cases k <;> rfl
@[simp] theorem latchRequest_bufs (s : State) (k : Transaction) : (s.latchRequest k).bufs = s.bufs := by cases k <;> rfl
@[simp] theorem latchRequest_flags (s : State) (k : Transaction) : (s.latchRequest k).flags = s.flags := by cases k <;> rfl
@[simp] theorem latchRequest_accs (s : State) (k : Transaction) : (s.latchRequest k).accs = s.accs := by cases k <;> rfl
@[simp] theorem latchRequest_transport (s : State) (k : Transaction) : (s.latchRequest k).transport = s.transport := by cases k <;> rfl
@[simp] theorem latchRequest_world (s : State) (k : Transaction) : (s.latchRequest k).world = s.world := by cases k <;> rfl
@[simp] theorem latchRequest_free (s : State) (k : Transaction) : (s.latchRequest k).free = s.free := by cases k <;> rfl

/-! ### `prepare` -/

@[simp] theorem prepare_cfg (s : State) (k : Transaction) : (s.prepare k).cfg = s.cfg := by cases k <;> rfl
@[simp] theorem prepare_ops (s : State) (k : Transaction) : (s.prepare k).ops = s.ops := by cases k <;> rfl
@[simp] theorem prepare_res (s : State) (k : Transaction) : (s.prepare k).res = s.res := by cases k <;> rfl
@[simp] theorem prepare_seq (s : State) (k : Transaction) : (s.prepare k).seq = (s.latchRequest k).seq := by cases k <;> rfl
@[simp] theorem prepare_flags (s : State) (k : Transaction) : (s.prepare k).flags = s.flags := by cases k <;> rfl
@[simp] theorem prepare_transport (s : State) (k : Transaction) : (s.prepare k).transport = s.transport := by cases k <;> rfl
@[simp] theorem prepare_world (s : State) (k : Transaction) : (s.prepare k).world = s.world := by cases k <;> rfl
@[simp] theorem prepare_free (s : State) (k : Transaction) : (s.prepare k).free = s.free := by cases k <;> rfl

/-! ### `withOps` -/

@[simp] theorem withOps_cfg (s : State) (o : Operands) : (s.withOps o).cfg = s.cfg := rfl
@[simp] theorem withOps_ops (s : State) (o : Operands) : (s.withOps o).ops = o := rfl
@[simp] theorem withOps_res (s : State) (o : Operands) : (s.withOps o).res = s.res := rfl
@[simp] theorem withOps_bufs (s : State) (o : Operands) : (s.withOps o).bufs = s.bufs := rfl
@[simp] theorem withOps_seq (s : State) (o : Operands) : (s.withOps o).seq = s.seq := rfl
@[simp] theorem withOps_flags (s : State) (o : Operands) : (s.withOps o).flags = s.flags := rfl
@[simp] theorem withOps_accs (s : State) (o : Operands) : (s.withOps o).accs = s.accs := rfl
@[simp] theorem withOps_transport (s : State) (o : Operands) : (s.withOps o).transport = s.transport := rfl
@[simp] theorem withOps_world (s : State) (o : Operands) : (s.withOps o).world = s.world := rfl
@[simp] theorem withOps_free (s : State) (o : Operands) : (s.withOps o).free = s.free := rfl

/-! ### `advance` -/

@[simp] theorem advance_cfg (s : State) : s.advance.cfg = s.cfg := rfl
@[simp] theorem advance_ops (s : State) : s.advance.ops = s.ops := rfl
@[simp] theorem advance_res (s : State) : s.advance.res = s.res := rfl
@[simp] theorem advance_bufs (s : State) : s.advance.bufs = s.bufs := rfl
@[simp] theorem advance_seq (s : State) : s.advance.seq = s.seq := rfl
@[simp] theorem advance_flags (s : State) : s.advance.flags = s.flags := rfl
@[simp] theorem advance_accs (s : State) : s.advance.accs = s.accs := rfl
@[simp] theorem advance_transport (s : State) : s.advance.transport = s.transport := rfl
@[simp] theorem advance_world (s : State) : s.advance.world = { s.world with script := s.world.script.tail } := rfl
@[simp] theorem advance_free (s : State) : s.advance.free = s.free := rfl

/-! ### `lineArrive` -/

@[simp] theorem lineArrive_cfg (bs : List Byte) (s : State) : (lineArrive bs s).cfg = s.cfg := rfl
@[simp] theorem lineArrive_ops (bs : List Byte) (s : State) : (lineArrive bs s).ops = s.ops := rfl
@[simp] theorem lineArrive_res (bs : List Byte) (s : State) : (lineArrive bs s).res = s.res := rfl
@[simp] theorem lineArrive_bufs (bs : List Byte) (s : State) : (lineArrive bs s).bufs = s.bufs := rfl
@[simp] theorem lineArrive_seq (bs : List Byte) (s : State) : (lineArrive bs s).seq = s.seq := rfl
@[simp] theorem lineArrive_flags (bs : List Byte) (s : State) : (lineArrive bs s).flags = s.flags := rfl
@[simp] theorem lineArrive_accs (bs : List Byte) (s : State) : (lineArrive bs s).accs = s.accs := rfl
@[simp] theorem lineArrive_transport (bs : List Byte) (s : State) : (lineArrive bs s).transport = { s.transport with unread := s.transport.unread ++ bs } := rfl
@[simp] theorem lineArrive_world (bs : List Byte) (s : State) : (lineArrive bs s).world = s.world := rfl
@[simp] theorem lineArrive_free (bs : List Byte) (s : State) : (lineArrive bs s).free = s.free := rfl

/-! ### What the primitives return -/

@[simp] theorem txWrite_fst (s : State) (f : List Byte) : (s.txWrite f).1 = (s.transport.write f).1 := rfl

@[simp] theorem rxRead_fst (s : State) (n : Nat) : (s.rxRead n).1 = (s.transport.read n s.seq.deadline).1 := rfl

@[simp] theorem decodeRx_fst (s : State) : s.decodeRx.1 = decFrame s.cfg.version s.cfg.crcSpan s.rxFrame := rfl

theorem latchRequest_reqId (s : State) (k : Transaction) : (s.latchRequest k).seq.reqId = s.ops.id := by cases k <;> rfl

theorem latchRequest_reqW (s : State) : (s.latchRequest .read).seq.reqW = s.ops.regw := rfl

@[simp] theorem latchRequest_txn (s : State) (k : Transaction) : (s.latchRequest k).seq.txn = s.seq.txn := by cases k <;> rfl

@[simp] theorem latchRequest_phase (s : State) (k : Transaction) : (s.latchRequest k).seq.phase = s.seq.phase := by
  cases k <;> rfl

@[simp] theorem latchRequest_hunt (s : State) (k : Transaction) : (s.latchRequest k).seq.hunt = s.seq.hunt := by
  cases k <;> rfl

@[simp] theorem latchRequest_resyncCnt (s : State) (k : Transaction) :
    (s.latchRequest k).seq.resyncCnt = s.seq.resyncCnt := by cases k <;> rfl

@[simp] theorem latchRequest_deadline (s : State) (k : Transaction) :
    (s.latchRequest k).seq.deadline = s.seq.deadline := by cases k <;> rfl

theorem prepare_bufs (s : State) (k : Transaction) :
    (s.prepare k).bufs = (s.buildFrame s.ops.id (requestOpcode k) (requestParams k s)).bufs := by cases k <;> rfl

theorem prepare_accs (s : State) (k : Transaction) :
    (s.prepare k).accs = encAccs s.cfg s.ops.id (requestOpcode k) (requestParams k s) s.accs := by cases k <;> rfl

end Sys2Proof.Machine
end

