-- ==== Sys2Proof/Laws/Ops.lean ====
section
/-!
SUPPORT. What the shared operations of `Machine/Ops.lean` can do, one lemma each: accepting a command, storing a frame,
delivering a result, the two transport primitives.
-/
namespace Sys2Proof.Machine

/-! ### Accepting a command -/

theorem ready_iff (s : State) : s.ready = true ↔ s.flags.busy = false ∧ s.seq.txn = .idle := by
  simp [State.ready]

theorem offer_of_ready {s : State} (h : s.ready = true) (k : State → Out) : offer s k = k s.accept := by
  simp [offer, h]

theorem offer_of_not_ready {s : State} (h : s.ready = false) (k : State → Out) : offer s k = .refused .busy := by
  simp [offer, h]

/-- All an accepted offer says. -/
theorem offer_eq_next {s t : State} {k : State → Out} (h : offer s k = .next t) : s.ready = true ∧ k s.accept = .next t := by
  unfold offer at h
  split at h
  · exact ⟨‹_›, h⟩
  · cases h

@[simp] theorem setCmd_ready (s : State) (c : BitVec 3) : (s.setCmd c).ready = s.ready := rfl

@[simp] theorem withOps_ready (s : State) (o : Operands) : (s.withOps o).ready = s.ready := rfl

@[simp] theorem storeRx_ready (s : State) (f : List Byte) : (s.storeRx f).ready = s.ready := rfl

theorem deliver_ready (r : Result) (s : State) : (deliver r s).ready = true := rfl

/-! ### Frames in the buffers -/

theorem txFrame_storeTx {s : State} (h : Memory.wf s.bufs.tx = true) (f : List Byte) : (s.storeTx f).txFrame = f :=
  memRead_memWrite h 0 f

theorem rxFrame_storeRx {s : State} (h : Memory.wf s.bufs.rx = true) (f : List Byte) : (s.storeRx f).rxFrame = f :=
  memRead_memWrite h 0 f

theorem txFrame_buildFrame {s : State} (h : Memory.wf s.bufs.tx = true) (id op : Byte) (ps : List Byte) :
    (s.buildFrame id op ps).txFrame = encFrame s.cfg.version s.cfg.crcSpan id op ps :=
  memRead_memWrite h 0 _

theorem txFrame_congr {s t : State} (h : t.bufs.tx = s.bufs.tx) (hl : t.bufs.txlen = s.bufs.txlen) : t.txFrame = s.txFrame := by
  unfold State.txFrame
  rw [h, hl]

theorem rxFrame_congr {s t : State} (h : t.bufs.rx = s.bufs.rx) (hl : t.bufs.rxlen = s.bufs.rxlen) : t.rxFrame = s.rxFrame := by
  unfold State.rxFrame
  rw [h, hl]

/-! ### Delivery -/

@[simp] theorem kindOnly_kind (n : Nat) (k : ResKind) : (kindOnly n k).kind = k := rfl

@[simp] theorem resultRegs_kind (n : Nat) (r : Result) : (resultRegs n r).kind = r.kind := by cases r <;> rfl

theorem resultRegs_params_wf (n : Nat) (r : Result) : Memory.wf (resultRegs n r).params = true := by
  have h : Memory.wf [] = true := rfl
  cases r <;> exact memWrite_wf h 0 _

/-- The parameters DECODE delivers are those of the packet, as far as `RES_PLEN` can count them. -/
theorem resParams_okDecode (s : State) (st : StatusPacket) (h : st.params.length < 2 ^ 17) :
    (deliver (.okDecode st) s).resParams = st.params := by
  have hl : (BitVec.ofNat 17 st.params.length).toNat = st.params.length := by
    rw [BitVec.toNat_ofNat]; exact Nat.mod_eq_of_lt h
  have hp : (deliver (.okDecode st) s).resParams = memRead (memWrite [] 0 st.params) 0 (BitVec.ofNat 17 st.params.length).toNat := rfl
  rw [hp, hl]
  exact memRead_memWrite rfl 0 st.params

/-! ### The transport primitives -/

/-- All a `TxWrite` can do. -/
theorem write_cases (t : Transport) (f : List Byte) :
    (t.txPlan.headD .ok = .ok ∧ t.write f = (.ok, { t with
      txStream := t.txStream ++ f
      txPlan := t.txPlan.tail
      log := t.log ++ [.txWrite f .ok] })) ∨
    (∃ k, t.txPlan.headD .ok = .ioError k ∧ t.write f = (.ioError, { t with
      txStream := t.txStream ++ f.take k
      txPlan := t.txPlan.tail
      log := t.log ++ [.txWrite f .ioError] })) := by
  unfold Transport.write
  cases h : t.txPlan.headD .ok with
  | ok => exact .inl ⟨rfl, rfl⟩
  | ioError k => exact .inr ⟨k, rfl, rfl⟩

/-- A `TxWrite` with nothing planned succeeds. -/
theorem write_unplanned {t : Transport} (h : t.txPlan = []) (f : List Byte) :
    t.write f = (.ok, { t with txStream := t.txStream ++ f, log := t.log ++ [.txWrite f .ok] }) := by
  simp [Transport.write, h]

@[simp] theorem write_unread (t : Transport) (f : List Byte) : (t.write f).2.unread = t.unread := by
  unfold Transport.write; split <;> rfl

@[simp] theorem write_rxPlan (t : Transport) (f : List Byte) : (t.write f).2.rxPlan = t.rxPlan := by
  unfold Transport.write; split <;> rfl

@[simp] theorem write_log (t : Transport) (f : List Byte) : (t.write f).2.log = t.log ++ [.txWrite f (t.write f).1] := by
  unfold Transport.write; split <;> rfl

@[simp] theorem read_txStream (t : Transport) (n : Nat) (d : Timeout) : (t.read n d).2.txStream = t.txStream := rfl

@[simp] theorem read_txPlan (t : Transport) (n : Nat) (d : Timeout) : (t.read n d).2.txPlan = t.txPlan := rfl

@[simp] theorem read_rxPlan (t : Transport) (n : Nat) (d : Timeout) : (t.read n d).2.rxPlan = t.rxPlan.tail := rfl

@[simp] theorem read_log (t : Transport) (n : Nat) (d : Timeout) :
    (t.read n d).2.log = t.log ++ [.rxRead n d (t.read n d).1] := rfl

/-- An `RxRead` answered with bytes gives as many as it asked for. -/
theorem read_bytes_length {t : Transport} {n : Nat} {d : Timeout} {b : List Byte} (h : (t.read n d).1 = .bytes b) :
    b.length = n := by
  have h' : (rxAnswer n (t.rxPlan.headD .unplanned).verdict (t.unread ++ (t.rxPlan.headD .unplanned).arrived)).1 = .bytes b := h
  unfold rxAnswer at h'
  split at h'
  · split at h'
    · rename_i hn
      cases h'
      exact List.length_take_of_le hn
    · cases h'
  · cases h'
  · cases h'

/-- An `RxRead` with nothing planned takes its bytes when enough are unread. -/
theorem read_unplanned_bytes {t : Transport} (h : t.rxPlan = []) {n : Nat} (hn : n ≤ t.unread.length) (d : Timeout) :
    t.read n d = (.bytes (t.unread.take n), { t with
      unread := t.unread.drop n
      log := t.log ++ [.rxRead n d (.bytes (t.unread.take n))] }) := by
  simp [Transport.read, h, RxPlan.unplanned, rxAnswer, hn]

/-- An `RxRead` with nothing planned times out when too few bytes are unread, and loses none. -/
theorem read_unplanned_timeout {t : Transport} (h : t.rxPlan = []) {n : Nat} (hn : t.unread.length < n) (d : Timeout) :
    t.read n d = (.timeout, { t with log := t.log ++ [.rxRead n d .timeout] }) := by
  have : ¬ n ≤ t.unread.length := by omega
  simp [Transport.read, h, RxPlan.unplanned, rxAnswer, this]

/-! ### Accumulators -/

/-- The encoder's unit is the version's own: `CHK8` in v1. -/
theorem encAccs_v1 {cfg : Cfg} (h : cfg.version = .v1) (id op : Byte) (ps : List Byte) (a : Accs) :
    (encAccs cfg id op ps a).crc16 = a.crc16 ∧ (encAccs cfg id op ps a).ffcnt = a.ffcnt := by
  unfold encAccs; rw [h]; exact ⟨rfl, rfl⟩

/-- The encoder's units are the version's own: `CRC16` and `FFCNT` in v2. -/
theorem encAccs_v2 {cfg : Cfg} (h : cfg.version = .v2) (id op : Byte) (ps : List Byte) (a : Accs) :
    (encAccs cfg id op ps a).chk8 = a.chk8 := by
  unfold encAccs; rw [h]

theorem decAccs_v1 {cfg : Cfg} (h : cfg.version = .v1) (b : List Byte) (a : Accs) :
    (decAccs cfg b a).crc16 = a.crc16 ∧ (decAccs cfg b a).ffcnt = a.ffcnt := by
  unfold decAccs
  split <;> first | exact ⟨rfl, rfl⟩ | simp_all

theorem decAccs_v2 {cfg : Cfg} (h : cfg.version = .v2) (b : List Byte) (a : Accs) : (decAccs cfg b a).chk8 = a.chk8 := by
  unfold decAccs
  split <;> first | rfl | simp_all

theorem encAccs_ffcnt {a : Accs} (h : a.ffcnt ≠ 3) (cfg : Cfg) (id op : Byte) (ps : List Byte) :
    (encAccs cfg id op ps a).ffcnt ≠ 3 := by
  unfold encAccs
  split
  · exact h
  · exact stuffCount_ne_three (by decide) ps

theorem decAccs_ffcnt {a : Accs} (h : a.ffcnt ≠ 3) (cfg : Cfg) (b : List Byte) : (decAccs cfg b a).ffcnt ≠ 3 := by
  unfold decAccs
  split <;> first | exact h | exact unstuffCount_ne_three (by decide) _

end Sys2Proof.Machine
end

