-- ==== Sys2Proof/Laws/Receive.lean ====
section
/-!
SUPPORT. What RECEIVE (`44_transaction_engine.md` R106) can do, said once: which state it touches (`Receives`), and which
requests it makes for what it returns (`ReadsOf`).
-/
namespace Sys2Proof.Machine

/-- From `s` to `t` only receiving has happened, with the requests `reads`: the RX stream, `RXBUF`, the phase counters and the
decoder's accumulators may differ, nothing else. -/
structure Receives (s t : State) (reads : List Exchange) : Prop where
  cfg      : t.cfg = s.cfg
  ops      : t.ops = s.ops
  res      : t.res = s.res
  tx       : t.bufs.tx = s.bufs.tx
  txlen    : t.bufs.txlen = s.bufs.txlen
  txEncoded : t.bufs.txEncoded = s.bufs.txEncoded
  flags    : t.flags = s.flags
  world    : t.world = s.world
  free     : t.free = s.free
  txn      : t.seq.txn = s.seq.txn
  reqId    : t.seq.reqId = s.seq.reqId
  reqW     : t.seq.reqW = s.seq.reqW
  deadline : t.seq.deadline = s.seq.deadline
  phase    : t.seq.phase = s.seq.phase
  txStream : t.transport.txStream = s.transport.txStream
  txPlan   : t.transport.txPlan = s.transport.txPlan
  log      : t.transport.log = s.transport.log ++ reads
  isRead   : ∀ e ∈ reads, e.isRead s.seq.deadline
  rxWf     : Memory.wf s.bufs.rx = true → Memory.wf t.bufs.rx = true
  ffcnt    : s.accs.ffcnt ≠ 3 → t.accs.ffcnt ≠ 3
  accsV1   : s.cfg.version = .v1 → t.accs.crc16 = s.accs.crc16 ∧ t.accs.ffcnt = s.accs.ffcnt
  accsV2   : s.cfg.version = .v2 → t.accs.chk8 = s.accs.chk8

theorem Receives.refl (s : State) : Receives s s [] := by
  constructor <;> simp

theorem Receives.trans {s t u : State} {l m : List Exchange} (h : Receives s t l) (g : Receives t u m) :
    Receives s u (l ++ m) where
  cfg := g.cfg.trans h.cfg
  ops := g.ops.trans h.ops
  res := g.res.trans h.res
  tx := g.tx.trans h.tx
  txlen := g.txlen.trans h.txlen
  txEncoded := g.txEncoded.trans h.txEncoded
  flags := g.flags.trans h.flags
  world := g.world.trans h.world
  free := g.free.trans h.free
  txn := g.txn.trans h.txn
  reqId := g.reqId.trans h.reqId
  reqW := g.reqW.trans h.reqW
  deadline := g.deadline.trans h.deadline
  phase := g.phase.trans h.phase
  txStream := g.txStream.trans h.txStream
  txPlan := g.txPlan.trans h.txPlan
  log := by rw [g.log, h.log, List.append_assoc]
  isRead := by
    intro e he
    rcases List.mem_append.1 he with he | he
    · exact h.isRead e he
    · rw [← h.deadline]; exact g.isRead e he
  rxWf := fun w => g.rxWf (h.rxWf w)
  ffcnt := fun w => g.ffcnt (h.ffcnt w)
  accsV1 := fun v =>
    have g' := g.accsV1 (by rw [h.cfg, v])
    have h' := h.accsV1 v
    ⟨g'.1.trans h'.1, g'.2.trans h'.2⟩
  accsV2 := fun v => (g.accsV2 (by rw [h.cfg, v])).trans (h.accsV2 v)

/-- All one `RxRead` does. -/
theorem rxRead_receives (s : State) (n : Nat) : Receives s (s.rxRead n).2 [.rxRead n s.seq.deadline (s.rxRead n).1] := by
  constructor <;> simp [Exchange.isRead]

theorem openHunt_receives (s : State) (w : List Byte) : Receives s (s.openHunt w) [] := by
  constructor <;> simp

theorem slideHunt_receives (s : State) (d : List Byte) : Receives s (s.slideHunt d) [] := by
  constructor <;> simp

theorem takeFrame_eq (s : State) (p body : List Byte) :
    takeFrame s p body =
      ((match decFrame s.cfg.version s.cfg.crcSpan (s.storeRx (mark s.cfg.version ++ p ++ body)).rxFrame with
        | .ok st => .ok st
        | .error c => .err c),
      (s.storeRx (mark s.cfg.version ++ p ++ body)).decodeRx.2) := by
  unfold takeFrame State.decodeRx
  split <;> simp_all

theorem takeFrame_receives (s : State) (p body : List Byte) : Receives s (takeFrame s p body).2 [] := by
  rw [takeFrame_eq]
  constructor
  case rxWf => exact fun h => memWrite_wf h 0 _
  case ffcnt => exact fun h => decAccs_ffcnt h _ _
  case accsV1 => exact fun h => decAccs_v1 h _ _
  case accsV2 => exact fun h => decAccs_v2 h _ _
  all_goals simp

/-! ### The requests of RECEIVE -/

/-- The requests made for a return value `r` under deadline `d`: all gave their bytes, but for the last one, which ended
RECEIVE if it failed. -/
def ReadsOf (d : Timeout) : Received → List Exchange → Prop
  | .timeout, l => ∃ init n, l = init ++ [.rxRead n d .timeout] ∧ ∀ e ∈ init, e.gaveBytes
  | .ioError, l => ∃ init n, l = init ++ [.rxRead n d .ioError] ∧ ∀ e ∈ init, e.gaveBytes
  | .ok _, l => ∀ e ∈ l, e.gaveBytes
  | .err _, l => ∀ e ∈ l, e.gaveBytes

/-- More reads that gave their bytes, before. -/
theorem ReadsOf.prepend {d : Timeout} {r : Received} {l init : List Exchange} (h : ReadsOf d r l)
    (hi : ∀ e ∈ init, e.gaveBytes) : ReadsOf d r (init ++ l) := by
  cases r with
  | timeout =>
    obtain ⟨i, n, rfl, h⟩ := h
    exact ⟨init ++ i, n, by simp, by simpa [or_imp, forall_and] using ⟨hi, h⟩⟩
  | ioError =>
    obtain ⟨i, n, rfl, h⟩ := h
    exact ⟨init ++ i, n, by simp, by simpa [or_imp, forall_and] using ⟨hi, h⟩⟩
  | ok st => simpa [ReadsOf, or_imp, forall_and] using ⟨hi, h⟩
  | err c => simpa [ReadsOf, or_imp, forall_and] using ⟨hi, h⟩

/-- The three ways a read goes on, as one statement over what follows. -/
theorem rxRead_cases (s : State) (n : Nat) :
    (∃ b s1, s.rxRead n = (.bytes b, s1) ∧ b.length = n ∧
      Receives s s1 [.rxRead n s.seq.deadline (.bytes b)]) ∨
    (∃ s1, s.rxRead n = (.timeout, s1) ∧ Receives s s1 [.rxRead n s.seq.deadline .timeout]) ∨
    (∃ s1, s.rxRead n = (.ioError, s1) ∧ Receives s s1 [.rxRead n s.seq.deadline .ioError]) := by
  have h := rxRead_receives s n
  rcases hr : s.rxRead n with ⟨a, s1⟩
  rw [hr] at h
  cases a with
  | bytes b => exact .inl ⟨b, s1, rfl, read_bytes_length (t := s.transport) (d := s.seq.deadline) (by rw [← rxRead_fst, hr]), h⟩
  | timeout => exact .inr (.inl ⟨s1, rfl, h⟩)
  | ioError => exact .inr (.inr ⟨s1, rfl, h⟩)

/-- A read that failed, as the whole of what RECEIVE still had to ask. -/
theorem ReadsOf.timeout_last (d : Timeout) (n : Nat) : ReadsOf d .timeout [.rxRead n d .timeout] :=
  ⟨[], n, rfl, by simp⟩

theorem ReadsOf.ioError_last (d : Timeout) (n : Nat) : ReadsOf d .ioError [.rxRead n d .ioError] :=
  ⟨[], n, rfl, by simp⟩

/-! ### The phases -/

/-- All the hunt does. -/
theorem hunt_receives (left : Nat) (s : State) :
    ∃ reads, Receives s (hunt left s).2 reads ∧ (hunt left s).2.bufs = s.bufs ∧ (hunt left s).2.accs = s.accs ∧
      (match (hunt left s).1 with
        | none => (∀ e ∈ reads, e.gaveBytes) ∧ (hunt left s).2.seq.hunt = mark s.cfg.version
        | some r => ReadsOf s.seq.deadline r reads ∧ (r = .err .header ∨ r = .timeout ∨ r = .ioError)) := by
  induction left generalizing s with
  | zero =>
    unfold hunt
    split
    · exact ⟨[], .refl s, rfl, rfl, by simp, of_decide_eq_true ‹_›⟩
    · exact ⟨[], .refl s, rfl, rfl, by simp [ReadsOf], .inl rfl⟩
  | succ left ih =>
    unfold hunt
    split
    · exact ⟨[], .refl s, rfl, rfl, by simp, of_decide_eq_true ‹_›⟩
    · rcases rxRead_cases s 1 with ⟨b, s1, e, hb, h⟩ | ⟨s1, e, h⟩ | ⟨s1, e, h⟩
      · have hs : s1.bufs = s.bufs ∧ s1.accs = s.accs := by
          have : s1 = (s.rxRead 1).2 := by rw [e]
          rw [this]; exact ⟨rfl, rfl⟩
        obtain ⟨reads, h1, hb1, ha1, h2⟩ := ih (s1.slideHunt b)
        have hg : ∀ e' ∈ [Exchange.rxRead 1 s.seq.deadline (.bytes b)], e'.gaveBytes := by simpa [Exchange.gaveBytes] using hb
        refine ⟨[.rxRead 1 s.seq.deadline (.bytes b)] ++ ([] ++ reads), ?_, ?_, ?_, ?_⟩
        · simp only [e]; exact h.trans ((slideHunt_receives s1 b).trans h1)
        · simp only [e, hb1]; exact hs.1
        · simp only [e, ha1]; exact hs.2
        · simp only [e]
          cases hh : (hunt left (s1.slideHunt b)).1 with
          | none =>
            rw [hh] at h2
            refine ⟨?_, ?_⟩
            · simpa [or_imp, forall_and] using ⟨hg _ (by simp), h2.1⟩
            · rw [h2.2, slideHunt_cfg, h.cfg]
          | some r =>
            rw [hh] at h2
            refine ⟨?_, h2.2⟩
            have := h2.1
            rw [slideHunt_seq] at this
            rw [show ({ s1.seq with hunt := s1.seq.hunt.drop 1 ++ b, resyncCnt := s1.seq.resyncCnt + 1 } : Sequencer).deadline
              = s.seq.deadline from h.deadline] at this
            exact this.prepend hg
      · have hs : s1.bufs = s.bufs ∧ s1.accs = s.accs := by
          have : s1 = (s.rxRead 1).2 := by rw [e]
          rw [this]; exact ⟨rfl, rfl⟩
        simp only [e]
        exact ⟨_, h, hs.1, hs.2, .timeout_last _ _, by simp⟩
      · have hs : s1.bufs = s.bufs ∧ s1.accs = s.accs := by
          have : s1 = (s.rxRead 1).2 := by rw [e]
          rw [this]; exact ⟨rfl, rfl⟩
        simp only [e]
        exact ⟨_, h, hs.1, hs.2, .ioError_last _ _, by simp⟩

/-- What phase 3 stores when it stores a frame; else `RXBUF` is as before. -/
def StoredFrame (s t : State) (r : Received) : Prop :=
  (∃ p body, p.length = prefixLen s.cfg.version ∧ body.length = lenField s.cfg.version p ∧
    t.bufs.rx = memWrite s.bufs.rx 0 (mark s.cfg.version ++ p ++ body) ∧
    t.bufs.rxlen = (mark s.cfg.version ++ p ++ body).length ∧
    (Memory.wf s.bufs.rx = true → r =
      match decFrame s.cfg.version s.cfg.crcSpan (mark s.cfg.version ++ p ++ body) with
      | .ok st => .ok st
      | .error c => .err c)) ∨
  (t.bufs.rx = s.bufs.rx ∧ t.bufs.rxlen = s.bufs.rxlen ∧ (r = .timeout ∨ r = .ioError ∨ r = .err .length ∨ r = .err .header))

theorem rxRead_bufs' {s s1 : State} {n : Nat} {a : RxAnswer} (h : s.rxRead n = (a, s1)) : s1.bufs = s.bufs := by
  have : s1 = (s.rxRead n).2 := by rw [h]
  rw [this]; rfl

/-- All phase 3 does, after phase 2 has given `p`. -/
theorem receiveBody_receives (p : List Byte) (s : State) (hp : p.length = prefixLen s.cfg.version) :
    ∃ reads, Receives s (receiveBody p s).2 reads ∧ ReadsOf s.seq.deadline (receiveBody p s).1 reads ∧
      StoredFrame s (receiveBody p s).2 (receiveBody p s).1 := by
  unfold receiveBody
  rcases rxRead_cases s (lenField s.cfg.version p) with ⟨b, s1, e, hb, h⟩ | ⟨s1, e, h⟩ | ⟨s1, e, h⟩
  · simp only [e]
    refine ⟨_, h.trans (takeFrame_receives s1 p b), ?_, ?_⟩
    · rw [takeFrame_eq]
      have hg : ∀ e' ∈ [Exchange.rxRead (lenField s.cfg.version p) s.seq.deadline (.bytes b)] ++ [], e'.gaveBytes := by
        simpa [Exchange.gaveBytes] using hb
      simp only
      split <;> exact hg
    · rw [takeFrame_eq]
      have hbuf := rxRead_bufs' e
      refine .inl ⟨p, b, hp, hb, ?_, ?_, ?_⟩
      · simp [h.cfg, hbuf]
      · simp [h.cfg]
      · intro w
        rw [rxFrame_storeRx (by rw [hbuf]; exact w), h.cfg]
  · simp only [e]
    have hbuf := rxRead_bufs' e
    exact ⟨_, h, .timeout_last _ _, .inr ⟨by rw [hbuf], by rw [hbuf], .inl rfl⟩⟩
  · simp only [e]
    have hbuf := rxRead_bufs' e
    exact ⟨_, h, .ioError_last _ _, .inr ⟨by rw [hbuf], by rw [hbuf], .inr (.inl rfl)⟩⟩

theorem StoredFrame.congr {s s1 t : State} {r : Received} (h : StoredFrame s1 t r) (hc : s1.cfg = s.cfg)
    (hb : s1.bufs = s.bufs) : StoredFrame s t r := by
  unfold StoredFrame at *
  rw [hc, hb] at h
  exact h

/-- All phases 2 and 3 do. -/
theorem receivePrefix_receives (s : State) :
    ∃ reads, Receives s (receivePrefix s).2 reads ∧ ReadsOf s.seq.deadline (receivePrefix s).1 reads ∧
      StoredFrame s (receivePrefix s).2 (receivePrefix s).1 := by
  unfold receivePrefix
  rcases rxRead_cases s (prefixLen s.cfg.version) with ⟨p, s1, e, hb, h⟩ | ⟨s1, e, h⟩ | ⟨s1, e, h⟩
  · simp only [e]
    have hg : ∀ e' ∈ [Exchange.rxRead (prefixLen s.cfg.version) s.seq.deadline (.bytes p)], e'.gaveBytes := by
      simpa [Exchange.gaveBytes] using hb
    have hbuf := rxRead_bufs' e
    split
    · exact ⟨_, h, hg, .inr ⟨by rw [hbuf], by rw [hbuf], .inr (.inr (.inl rfl))⟩⟩
    · obtain ⟨reads, h1, h2, h3⟩ := receiveBody_receives p s1 (by rw [h.cfg]; exact hb)
      rw [h.deadline] at h2
      exact ⟨_, h.trans h1, h2.prepend hg, h3.congr h.cfg hbuf⟩
  · simp only [e]
    have hbuf := rxRead_bufs' e
    exact ⟨_, h, .timeout_last _ _, .inr ⟨by rw [hbuf], by rw [hbuf], .inl rfl⟩⟩
  · simp only [e]
    have hbuf := rxRead_bufs' e
    exact ⟨_, h, .ioError_last _ _, .inr ⟨by rw [hbuf], by rw [hbuf], .inr (.inl rfl)⟩⟩

/-- All RECEIVE does. -/
theorem receive_receives (s : State) :
    ∃ reads, Receives s (receive s).2 reads ∧ ReadsOf s.seq.deadline (receive s).1 reads ∧
      StoredFrame s (receive s).2 (receive s).1 := by
  unfold receive
  rcases rxRead_cases s (headerLen s.cfg.version) with ⟨w, s1, e, hw, h⟩ | ⟨s1, e, h⟩ | ⟨s1, e, h⟩
  · simp only [e]
    have hg : ∀ e' ∈ [Exchange.rxRead (headerLen s.cfg.version) s.seq.deadline (.bytes w)] ++ ([] : List Exchange),
        e'.gaveBytes := by
      simpa [Exchange.gaveBytes] using hw
    have hbuf := rxRead_bufs' e
    have h0 := h.trans (openHunt_receives s1 w)
    obtain ⟨reads, h1, hb1, _, h2⟩ := hunt_receives s1.cfg.resyncWindow (s1.openHunt w)
    rcases hh : hunt s1.cfg.resyncWindow (s1.openHunt w) with ⟨o, s2⟩
    rw [hh] at h1 h2 hb1
    cases o with
    | none =>
      simp only at h1 h2 hb1 ⊢
      obtain ⟨reads', h3, h4, h5⟩ := receivePrefix_receives s2
      rw [(h0.trans h1).deadline] at h4
      exact ⟨_, (h0.trans h1).trans h3,
        h4.prepend (by simpa only [List.mem_append, or_imp, forall_and] using ⟨by simpa [or_imp, forall_and] using hg, h2.1⟩),
        h5.congr (h0.trans h1).cfg (hb1.trans hbuf)⟩
    | some r =>
      simp only at h1 h2 hb1 ⊢
      obtain ⟨h2, hr⟩ := h2
      rw [h0.deadline] at h2
      refine ⟨_, h0.trans h1, h2.prepend hg, .inr ⟨by rw [hb1]; exact congrArg Buffers.rx hbuf, by rw [hb1]; exact congrArg Buffers.rxlen hbuf, ?_⟩⟩
      rcases hr with rfl | rfl | rfl <;> simp
  · simp only [e]
    have hbuf := rxRead_bufs' e
    exact ⟨_, h, .timeout_last _ _, .inr ⟨by rw [hbuf], by rw [hbuf], .inl rfl⟩⟩
  · simp only [e]
    have hbuf := rxRead_bufs' e
    exact ⟨_, h, .ioError_last _ _, .inr ⟨by rw [hbuf], by rw [hbuf], .inr (.inl rfl)⟩⟩

/-! ### How many reads come before a frame is stored -/

theorem rxRead_log_length {s s1 : State} {n : Nat} {a : RxAnswer} (h : s.rxRead n = (a, s1)) :
    s1.transport.log.length = s.transport.log.length + 1 ∧ s1.seq = s.seq := by
  have : s1 = (s.rxRead n).2 := by rw [h]
  subst this
  exact ⟨by simp, rfl⟩

/-- A hunt that finds the header has made one read for each stray byte. -/
theorem hunt_count (left : Nat) (s : State) (h : (hunt left s).1 = none) :
    (hunt left s).2.transport.log.length + s.seq.resyncCnt = s.transport.log.length + (hunt left s).2.seq.resyncCnt := by
  induction left generalizing s with
  | zero =>
    unfold hunt at h ⊢
    split
    · rfl
    · rfl
  | succ left ih =>
    unfold hunt at h ⊢
    split
    · rfl
    · rename_i hf
      rw [if_neg hf] at h
      rcases hr : s.rxRead 1 with ⟨a, s1⟩
      obtain ⟨hl, hq⟩ := rxRead_log_length hr
      rw [hr] at h
      cases a with
      | bytes d =>
        have := ih (s1.slideHunt d) h
        simp only [slideHunt_transport, slideHunt_seq, hl, hq] at this ⊢
        omega
      | timeout => cases h
      | ioError => cases h

/-- RECEIVE stores a frame only with a read after the hunt's and the fixed bytes': else `RXBUF` is as before. -/
theorem receive_stores_late (s : State) :
    ((receive s).2.bufs.rx = s.bufs.rx ∧ (receive s).2.bufs.rxlen = s.bufs.rxlen) ∨
    (receive s).2.transport.log.length = s.transport.log.length + (receive s).2.seq.resyncCnt + 3 := by
  have same : ∀ {s s1 : State} {n : Nat} {a : RxAnswer}, s.rxRead n = (a, s1) →
      s1.bufs.rx = s.bufs.rx ∧ s1.bufs.rxlen = s.bufs.rxlen := fun h => by rw [rxRead_bufs' h]; exact ⟨rfl, rfl⟩
  unfold receive
  rcases hw : s.rxRead (headerLen s.cfg.version) with ⟨a, s1⟩
  obtain ⟨hl1, hq1⟩ := rxRead_log_length hw
  cases a with
  | timeout => exact .inl (same hw)
  | ioError => exact .inl (same hw)
  | bytes w =>
    simp only
    have hc := hunt_count s1.cfg.resyncWindow (s1.openHunt w)
    obtain ⟨_, _, hb, _, _⟩ := hunt_receives s1.cfg.resyncWindow (s1.openHunt w)
    rcases hh : hunt s1.cfg.resyncWindow (s1.openHunt w) with ⟨o, s2⟩
    rw [hh] at hc hb
    have hb2 : s2.bufs.rx = s.bufs.rx ∧ s2.bufs.rxlen = s.bufs.rxlen := by
      rw [show s2.bufs = s1.bufs from hb]; exact same hw
    cases o with
    | some r => exact .inl hb2
    | none =>
      have hc := hc rfl
      simp only [openHunt_transport, openHunt_seq] at hc ⊢
      unfold receivePrefix
      rcases hp : s2.rxRead (prefixLen s2.cfg.version) with ⟨a, s3⟩
      obtain ⟨hl3, hq3⟩ := rxRead_log_length hp
      have hb3 : s3.bufs.rx = s.bufs.rx ∧ s3.bufs.rxlen = s.bufs.rxlen := by
        rw [(same hp).1, (same hp).2]; exact hb2
      cases a with
      | timeout => exact .inl hb3
      | ioError => exact .inl hb3
      | bytes p =>
        simp only
        split
        · exact .inl hb3
        · unfold receiveBody
          rcases hy : s3.rxRead (lenField s3.cfg.version p) with ⟨a, s4⟩
          obtain ⟨hl4, hq4⟩ := rxRead_log_length hy
          have hb4 : s4.bufs.rx = s.bufs.rx ∧ s4.bufs.rxlen = s.bufs.rxlen := by
            rw [(same hy).1, (same hy).2]; exact hb3
          cases a with
          | timeout => exact .inl hb4
          | ioError => exact .inl hb4
          | bytes b =>
            refine .inr ?_
            simp only [takeFrame_eq, decodeRx_transport, decodeRx_seq, storeRx_transport, storeRx_seq, hq4, hq3]
            omega

/-! ### Classification -/

theorem classify_unexpectedId (k : Transaction) {q : Sequencer} {st : StatusPacket} (h : st.id ≠ q.reqId) :
    classify k q st = (.unexpectedId st.id, .decoded) := by
  unfold classify; rw [if_pos h]

theorem classify_motorError (k : Transaction) {q : Sequencer} {st : StatusPacket} (h : st.id = q.reqId) (he : st.error ≠ 0) :
    classify k q st = (.motorError st.error, .decoded) := by
  unfold classify; rw [if_neg (not_not.2 h), if_pos he]

theorem classify_wrongCount {q : Sequencer} {st : StatusPacket} (h : st.id = q.reqId) (he : st.error = 0)
    (hl : st.params.length ≠ q.reqW.toNat) : classify .read q st = (.frameError .length, .malformed) := by
  unfold classify; rw [if_neg (not_not.2 h), if_neg (not_not.2 he)]; exact if_pos hl

theorem classify_read {q : Sequencer} {st : StatusPacket} (h : st.id = q.reqId) (he : st.error = 0)
    (hl : st.params.length = q.reqW.toNat) : classify .read q st = (.okRead (leValue st.params), .decoded) := by
  unfold classify; rw [if_neg (not_not.2 h), if_neg (not_not.2 he)]; exact if_neg (not_not.2 hl)

theorem classify_write {q : Sequencer} {st : StatusPacket} (h : st.id = q.reqId) (he : st.error = 0) :
    classify .write q st = (.okWrite, .decoded) := by
  unfold classify; rw [if_neg (not_not.2 h), if_neg (not_not.2 he)]

/-- All a classification can be. -/
theorem classify_cases (k : Transaction) (q : Sequencer) (st : StatusPacket) :
    (st.id ≠ q.reqId ∧ classify k q st = (.unexpectedId st.id, .decoded)) ∨
    (st.id = q.reqId ∧ st.error ≠ 0 ∧ classify k q st = (.motorError st.error, .decoded)) ∨
    (st.id = q.reqId ∧ st.error = 0 ∧ k = .read ∧ st.params.length ≠ q.reqW.toNat ∧
      classify k q st = (.frameError .length, .malformed)) ∨
    (st.id = q.reqId ∧ st.error = 0 ∧ k = .read ∧ st.params.length = q.reqW.toNat ∧
      classify k q st = (.okRead (leValue st.params), .decoded)) ∨
    (st.id = q.reqId ∧ st.error = 0 ∧ k = .write ∧ classify k q st = (.okWrite, .decoded)) := by
  by_cases h : st.id = q.reqId
  · by_cases he : st.error = 0
    · cases k with
      | read =>
        by_cases hl : st.params.length = q.reqW.toNat
        · exact .inr (.inr (.inr (.inl ⟨h, he, rfl, hl, classify_read h he hl⟩)))
        · exact .inr (.inr (.inl ⟨h, he, rfl, hl, classify_wrongCount h he hl⟩))
      | write => exact .inr (.inr (.inr (.inr ⟨h, he, rfl, classify_write h he⟩)))
    · exact .inr (.inl ⟨h, he, classify_motorError k h he⟩)
  · exact .inl ⟨h, classify_unexpectedId k h⟩

end Sys2Proof.Machine
end

