-- ==== Sys2Proof/Laws/Commands.lean ====
section
/-!
SUPPORT. What each command can do, by inversion: an instruction that answers a next state is one of ENCODE, DECODE, READ_DATA,
WRITE_DATA run from a state that differs from `s` in its loaded operands at most; and the shape of a transaction.
-/
namespace Sys2Proof.Machine

/-- The state in which a transaction starts its `TxWrite`. -/
def State.started (s : State) (k : Transaction) : State := ((s.setCmd k.code).accept).prepare k

theorem exec_transaction (k : Transaction) (s : State) :
    exec k.instr s = offer (s.setCmd k.code) (transactionBody k) := by
  cases k <;> rfl

theorem widthCheck_setCmd (k : Transaction) (o : Operands) (c : BitVec 3) :
    widthCheck k { o with cmd := c } = widthCheck k o := by
  cases k <;> rfl

theorem addressFits_setCmd (v : Version) (o : Operands) (c : BitVec 3) :
    addressFits v { o with cmd := c } = addressFits v o := by
  cases v <;> rfl

/-- A READ_DATA or WRITE_DATA that passes its checks runs its transaction. -/
theorem exec_of_transacts {k : Transaction} {s : State} (h : Transacts k s) : exec k.instr s = .next (transact k (s.started k)) := by
  obtain ⟨h1, h2, h3⟩ := h
  have w : widthCheck k (s.setCmd k.code).accept.ops = true := by rw [← h2]; exact widthCheck_setCmd k s.ops k.code
  have a : addressFits s.cfg.version (s.setCmd k.code).accept.ops = true := by
    rw [← h3]; exact addressFits_setCmd _ s.ops k.code
  rw [exec_transaction, offer_of_ready (by simpa using h1)]
  simp only [transactionBody, w, accept_cfg, setCmd_cfg, a]
  rfl

/-- A READ_DATA or WRITE_DATA that fails the width check. -/
theorem exec_of_widthMismatch {k : Transaction} {s : State} (h : s.ready = true) (hw : widthCheck k s.ops = false) :
    exec k.instr s = .next (deliver .widthMismatch (s.setCmd k.code).accept) := by
  have w : widthCheck k (s.setCmd k.code).accept.ops = false := by rw [← hw]; exact widthCheck_setCmd k s.ops k.code
  rw [exec_transaction, offer_of_ready (by simpa using h)]
  unfold transactionBody
  rw [w]
  rfl

/-- All a READ_DATA or WRITE_DATA that answers a next state can be. -/
theorem transaction_cases {k : Transaction} {s t : State} (h : exec k.instr s = .next t) :
    (s.ready = true ∧ widthCheck k s.ops = false ∧ t = deliver .widthMismatch (s.setCmd k.code).accept) ∨
    (Transacts k s ∧ t = transact k (s.started k)) := by
  have hr : s.ready = true := by
    rw [exec_transaction] at h
    simpa using (offer_eq_next h).1
  cases hw : widthCheck k s.ops with
  | false =>
    rw [exec_of_widthMismatch hr hw] at h
    cases h
    exact .inl ⟨hr, rfl, rfl⟩
  | true =>
    cases ha : addressFits s.cfg.version s.ops with
    | true =>
      have ht : Transacts k s := ⟨hr, hw, ha⟩
      rw [exec_of_transacts ht] at h
      cases h
      exact .inr ⟨ht, rfl⟩
    | false =>
      have w : widthCheck k (s.setCmd k.code).accept.ops = true := by rw [← hw]; exact widthCheck_setCmd k s.ops k.code
      have a : addressFits s.cfg.version (s.setCmd k.code).accept.ops = false := by
        rw [← ha]; exact addressFits_setCmd _ s.ops k.code
      rw [exec_transaction, offer_of_ready (by simpa using hr)] at h
      have a' : addressFits (s.setCmd k.code).accept.cfg.version (s.setCmd k.code).accept.ops = false := a
      unfold transactionBody at h
      rw [w, a'] at h
      cases h

/-! ### The codec commands -/

theorem exec_encode_of_ready {s : State} (h : s.ready = true) (hd : inDomain s.cfg.version s.ops.params = true) :
    exec .encode s =
      .next (deliver .okEncode ((s.setCmd 1).accept.buildFrame s.ops.id s.ops.opcode s.ops.params).giveTx) := by
  have e : exec .encode s = offer (s.setCmd 1) encodeBody := rfl
  have d : inDomain (s.setCmd 1).accept.cfg.version (s.setCmd 1).accept.ops.params = true := hd
  rw [e, offer_of_ready (by simpa using h), encodeBody, if_pos d]
  rfl

theorem encode_cases {s t : State} (h : exec .encode s = .next t) :
    s.ready = true ∧ inDomain s.cfg.version s.ops.params = true ∧
      t = deliver .okEncode ((s.setCmd 1).accept.buildFrame s.ops.id s.ops.opcode s.ops.params).giveTx := by
  have e : exec .encode s = offer (s.setCmd 1) encodeBody := rfl
  rw [e] at h
  obtain ⟨hr, hk⟩ := offer_eq_next h
  unfold encodeBody at hk
  split at hk
  · rename_i hd
    cases hk
    exact ⟨by simpa using hr, hd, rfl⟩
  · cases hk

/-- DECODE always completes, with the decoder's answer. -/
theorem exec_decode_of_ready {s : State} (h : s.ready = true) :
    exec .decode s = .next (deliver
      (match decFrame s.cfg.version s.cfg.crcSpan s.rxFrame with
        | .ok st => .okDecode st
        | .error c => .frameError c) (s.setCmd 2).accept.decodeRx.2) := by
  have e : exec .decode s = offer (s.setCmd 2) decodeBody := rfl
  rw [e, offer_of_ready (by simpa using h)]
  have hd : (s.setCmd 2).accept.decodeRx = (decFrame s.cfg.version s.cfg.crcSpan s.rxFrame, (s.setCmd 2).accept.decodeRx.2) := rfl
  unfold decodeBody
  rw [hd]
  cases decFrame s.cfg.version s.cfg.crcSpan s.rxFrame <;> rfl

theorem decode_ready {s t : State} (h : exec .decode s = .next t) : s.ready = true := by
  have e : exec .decode s = offer (s.setCmd 2) decodeBody := rfl
  rw [e] at h
  simpa using (offer_eq_next h).1

/-! ### The frame rows -/

theorem onlyIn_eq_next {v : Version} {s t : State} {k : Out} (h : onlyIn v s k = .next t) :
    s.ready = true ∧ s.cfg.version = v ∧ k = .next t := by
  unfold onlyIn at h
  split at h
  · split at h
    · exact ⟨‹_›, ‹_›, h⟩
    · cases h
  · cases h

theorem onlyIn_of {v : Version} {s : State} (h : s.ready = true) (hv : s.cfg.version = v) (k : Out) : onlyIn v s k = k := by
  simp [onlyIn, h, hv]

theorem onlyIn_foreign {v : Version} {s : State} (h : s.ready = true) (hv : s.cfg.version ≠ v) (k : Out) :
    onlyIn v s k = .refused .foreignVersion := by
  simp [onlyIn, h, hv]

/-- What a completed instruction is: one of the four commands, run on the operands it found or on those its frame carries. -/
inductive Command where
  | encode
  | decode
  | transaction (k : Transaction)

/-- The instruction of the command. -/
def Command.instr : Command → Instr
  | .encode => .encode
  | .decode => .decode
  | .transaction k => k.instr

/-- Which command an instruction runs. -/
def commandOf : Instr → Command
  | .encode => .encode
  | .decode => .decode
  | .readData => .transaction .read
  | .writeData => .transaction .write
  | .v1Instruction _ _ _ => .encode
  | .v1Status _ _ _ => .decode
  | .v2Instruction _ _ _ => .encode
  | .v2Status _ _ _ _ => .decode
  | .readV1 _ _ _ => .transaction .read
  | .readV2 _ _ _ => .transaction .read
  | .writeV1W1 _ _ _ => .transaction .write
  | .writeV1W2 _ _ _ => .transaction .write
  | .writeV1W4 _ _ _ => .transaction .write
  | .writeV2W1 _ _ _ => .transaction .write
  | .writeV2W2 _ _ _ => .transaction .write
  | .writeV2W4 _ _ _ => .transaction .write

/-- The operands or the received bytes an instruction loads before its command. -/
def loaded (i : Instr) (s : State) : State :=
  match i with
  | .encode => s
  | .decode => s
  | .readData => s
  | .writeData => s
  | .v1Instruction id op ps => s.withOps (s.ops.loadEncode id op ps)
  | .v1Status id e ps => s.storeRx (encsV1 id e ps)
  | .v2Instruction id op ps => s.withOps (s.ops.loadEncode id op ps)
  | .v2Status id i e ps => s.storeRx (encV2 s.cfg.crcSpan id i (e :: ps))
  | .readV1 id a w => s.withOps (s.ops.loadRead id (a.setWidth 16) w)
  | .readV2 id a w => s.withOps (s.ops.loadRead id a w)
  | .writeV1W1 id a x => s.withOps (s.ops.loadWrite id (a.setWidth 16) .w1 (x.setWidth 32))
  | .writeV1W2 id a x => s.withOps (s.ops.loadWrite id (a.setWidth 16) .w2 (x.setWidth 32))
  | .writeV1W4 id a x => s.withOps (s.ops.loadWrite id (a.setWidth 16) .w4 x)
  | .writeV2W1 id a x => s.withOps (s.ops.loadWrite id a .w1 (x.setWidth 32))
  | .writeV2W2 id a x => s.withOps (s.ops.loadWrite id a .w2 (x.setWidth 32))
  | .writeV2W4 id a x => s.withOps (s.ops.loadWrite id a .w4 x)

/-- All an instruction that answers a next state can be: its command on its loaded operands. -/
theorem exec_next_cases {i : Instr} {s t : State} (h : exec i s = .next t) :
    s.ready = true ∧ exec (commandOf i).instr (loaded i s) = .next t := by
  cases i with
  | encode => exact ⟨(encode_cases h).1, h⟩
  | decode => exact ⟨decode_ready h, h⟩
  | readData =>
    refine ⟨?_, h⟩
    rcases transaction_cases (k := .read) h with h | h
    · exact h.1
    · exact h.1.1
  | writeData =>
    refine ⟨?_, h⟩
    rcases transaction_cases (k := .write) h with h | h
    · exact h.1
    · exact h.1.1
  | v1Instruction id op ps =>
    obtain ⟨hr, hv, hk⟩ := onlyIn_eq_next h
    split at hk
    · exact ⟨hr, hk⟩
    · cases hk
  | v2Instruction id op ps =>
    obtain ⟨hr, hv, hk⟩ := onlyIn_eq_next h
    split at hk
    · exact ⟨hr, hk⟩
    · cases hk
  | v1Status id e ps =>
    simp only [exec, execV1Status, decodeCall] at h
    split at h
    · split at h
      · exact ⟨‹_›, h⟩
      · cases h
    · cases h
  | v2Status id i e ps =>
    simp only [exec, execV2Status, decodeCall] at h
    split at h
    · split at h
      · exact ⟨‹_›, h⟩
      · cases h
    · cases h
  | readV1 id a w => obtain ⟨hr, _, hk⟩ := onlyIn_eq_next h; exact ⟨hr, hk⟩
  | readV2 id a w => obtain ⟨hr, _, hk⟩ := onlyIn_eq_next h; exact ⟨hr, hk⟩
  | writeV1W1 id a x => obtain ⟨hr, _, hk⟩ := onlyIn_eq_next h; exact ⟨hr, hk⟩
  | writeV1W2 id a x => obtain ⟨hr, _, hk⟩ := onlyIn_eq_next h; exact ⟨hr, hk⟩
  | writeV1W4 id a x => obtain ⟨hr, _, hk⟩ := onlyIn_eq_next h; exact ⟨hr, hk⟩
  | writeV2W1 id a x => obtain ⟨hr, _, hk⟩ := onlyIn_eq_next h; exact ⟨hr, hk⟩
  | writeV2W2 id a x => obtain ⟨hr, _, hk⟩ := onlyIn_eq_next h; exact ⟨hr, hk⟩
  | writeV2W4 id a x => obtain ⟨hr, _, hk⟩ := onlyIn_eq_next h; exact ⟨hr, hk⟩

/-! ### The shape of a transaction -/

theorem started_txFrame {s : State} (h : Memory.wf s.bufs.tx = true) (k : Transaction) :
    (s.started k).txFrame = requestFrame k s := by
  cases k <;> exact memRead_memWrite h 0 _

/-- The response half: what RECEIVE did, then the delivery. -/
theorem awaitResponse_eq (k : Transaction) (s : State) :
    ∃ reads, Receives s.startReceive (receive s.startReceive).2 reads ∧
      ReadsOf s.cfg.timeout (receive s.startReceive).1 reads ∧
      StoredFrame s.startReceive (receive s.startReceive).2 (receive s.startReceive).1 ∧
      awaitResponse k s =
        finish (conclude k (receive s.startReceive).2.seq (receive s.startReceive).1) (receive s.startReceive).2 := by
  obtain ⟨reads, h1, h2, h3⟩ := receive_receives s.startReceive
  exact ⟨reads, h1, h2, h3, rfl⟩

/-- All a transaction can do, from a state whose frame is built. -/
theorem transact_cases (k : Transaction) (s : State) :
    ((s.transport.write s.txFrame).1 = .ioError ∧
      transact k s = finish (.ioError, .ioFailed) (s.txWrite s.txFrame).2) ∨
    ((s.transport.write s.txFrame).1 = .ok ∧ s.isBroadcast k = true ∧
      transact k s = deliver .okWrite ((s.txWrite s.txFrame).2.setTxn .sent)) ∨
    ((s.transport.write s.txFrame).1 = .ok ∧ s.isBroadcast k = false ∧
      transact k s = awaitResponse k ((s.txWrite s.txFrame).2.setTxn .sent)) := by
  have hb : (s.txWrite s.txFrame).2.isBroadcast k = s.isBroadcast k := by cases k <;> rfl
  unfold transact
  rcases h : s.txWrite s.txFrame with ⟨a, s1⟩
  have ha : (s.transport.write s.txFrame).1 = a := by rw [← txWrite_fst, h]
  rw [h] at hb
  cases a with
  | ioError => exact .inl ⟨ha, rfl⟩
  | ok =>
    cases hk : s.isBroadcast k with
    | true => exact .inr (.inl ⟨ha, rfl, by simp [hb, hk]⟩)
    | false => exact .inr (.inr ⟨ha, rfl, by simp [hb, hk]⟩)

end Sys2Proof.Machine
end

