-- ==== Sys2Proof/Laws/PerInstr.lean ====
section
/-!
SUPPORT. Statements made per instruction. `WireLength` is `30_encoding.md` R63: how long the words of a well-formed
instruction are.
-/
namespace Sys2Proof.Laws.WireLength

open Sys2Proof.Machine

/-- A command is a code and has no bytes; a v1 frame is 6 to 259 bytes, a v2 frame 10 to 65542 (R63). -/
def Statement (i : Instr) : Prop :=
  i.WellFormed → ∀ span : CrcSpan,
    match i.version with
    | none => ∃ code, encode span i = .command code
    | some .v1 => ∃ side b, encode span i = .frame side b ∧ 6 ≤ b.length ∧ b.length ≤ 259
    | some .v2 => ∃ side b, encode span i = .frame side b ∧ 10 ≤ b.length ∧ b.length ≤ 65542

/-- A v1 frame of at most 253 parameters. -/
theorem encV1_bounds (id op : Byte) {ps : List Byte} (h : ps.length ≤ 253) :
    6 ≤ (encV1 id op ps).length ∧ (encV1 id op ps).length ≤ 259 := by
  rw [encV1_length]; omega

/-- A v2 frame of at most 65532 stuffed bytes. -/
theorem encV2_bounds (span : CrcSpan) (id op : Byte) {ps : List Byte} (h : (stuff ps).length ≤ 65532) :
    10 ≤ (encV2 span id op ps).length ∧ (encV2 span id op ps).length ≤ 65542 := by
  rw [encV2, frameV2_length]; omega

/-- A v2 frame of a few parameters. -/
theorem encV2_bounds_of_few (span : CrcSpan) (id op : Byte) {ps : List Byte} (h : ps.length ≤ 8) :
    10 ≤ (encV2 span id op ps).length ∧ (encV2 span id op ps).length ≤ 65542 := by
  have := stuff_length_le ps
  exact encV2_bounds span id op (by omega)

theorem encode : Statement .encode := fun _ _ => ⟨_, rfl⟩
theorem decode : Statement .decode := fun _ _ => ⟨_, rfl⟩
theorem readData : Statement .readData := fun _ _ => ⟨_, rfl⟩
theorem writeData : Statement .writeData := fun _ _ => ⟨_, rfl⟩

theorem v1Instruction (id opcode : Byte) (params : List Byte) : Statement (.v1Instruction id opcode params) := fun h _ =>
  ⟨_, _, rfl, encV1_bounds id opcode ((inDomainV1_iff _).1 (Bool.and_eq_true_iff.1 h).1)⟩

theorem v1Status (id error : Byte) (params : List Byte) : Statement (.v1Status id error params) := fun h _ =>
  ⟨_, _, rfl, encV1_bounds id error ((inDomainV1_iff _).1 h)⟩

theorem v2Instruction (id opcode : Byte) (params : List Byte) : Statement (.v2Instruction id opcode params) := fun h span =>
  ⟨_, _, rfl, encV2_bounds span id opcode ((inDomainV2_iff _).1 (Bool.and_eq_true_iff.1 h).1)⟩

theorem v2Status (id instr error : Byte) (params : List Byte) : Statement (.v2Status id instr error params) := fun h span =>
  ⟨_, _, rfl, encV2_bounds span id instr ((inDomainV2_iff _).1 h)⟩

theorem readV1 (id addr : Byte) (width : Width) : Statement (.readV1 id addr width) := fun _ _ =>
  ⟨_, _, rfl, encV1_bounds id opRead (by simp [readRowV1])⟩

theorem readV2 (id : Byte) (addr : Word16) (width : Width) : Statement (.readV2 id addr width) := fun _ span =>
  ⟨_, _, rfl, encV2_bounds_of_few span id opRead (by simp [readRowV2])⟩

theorem writeV1W1 (id addr : Byte) (value : Byte) : Statement (.writeV1W1 id addr value) := fun _ _ =>
  ⟨_, _, rfl, encV1_bounds id opWrite (by simp [writeRowV1])⟩

theorem writeV1W2 (id addr : Byte) (value : Word16) : Statement (.writeV1W2 id addr value) := fun _ _ =>
  ⟨_, _, rfl, encV1_bounds id opWrite (by simp [writeRowV1])⟩

theorem writeV1W4 (id addr : Byte) (value : Word32) : Statement (.writeV1W4 id addr value) := fun _ _ =>
  ⟨_, _, rfl, encV1_bounds id opWrite (by simp [writeRowV1])⟩

theorem writeV2W1 (id : Byte) (addr : Word16) (value : Byte) : Statement (.writeV2W1 id addr value) := fun _ span =>
  ⟨_, _, rfl, encV2_bounds_of_few span id opWrite (by simp [writeRowV2])⟩

theorem writeV2W2 (id : Byte) (addr : Word16) (value : Word16) : Statement (.writeV2W2 id addr value) := fun _ span =>
  ⟨_, _, rfl, encV2_bounds_of_few span id opWrite (by simp [writeRowV2])⟩

theorem writeV2W4 (id : Byte) (addr : Word16) (value : Word32) : Statement (.writeV2W4 id addr value) := fun _ span =>
  ⟨_, _, rfl, encV2_bounds_of_few span id opWrite (by simp [writeRowV2])⟩

end Sys2Proof.Laws.WireLength
end

