-- ==== Sys2Proof/Laws/Step.lean ====
section
/-!
SUPPORT. What one step can do: a transaction in progress goes on, or the script's next event happens, or the block rests.
-/
namespace Sys2Proof.Machine

theorem runDuring_of_waits {e : Event} (h : e.waitsForDone = true) (s : State) : runDuring e s = .next (engineStep s) := by
  cases e <;> first | rfl | cases h

/-- A transaction in progress that the host leaves alone goes on. -/
theorem step_inProgress {s : State} (h : s.seq.phase ≠ .rest) (hu : s.undisturbed = true) : step s = .next (engineStep s) := by
  unfold step nextStep
  rw [if_neg h]
  unfold State.undisturbed at hu
  split
  · rfl
  · rename_i e es he
    rw [he] at hu
    exact runDuring_of_waits hu s

/-- An act of the host that does not wait happens as it would between commands. -/
theorem step_now {s : State} {a : HostAct} {es : List Event} (hs : s.world.script = .now a :: es) :
    step s = runAct a { s with world := { s.world with script := es } } := by
  unfold step nextStep
  split <;> simp only [hs, runEvent, runDuring, State.advance, List.tail_cons]

theorem step_wait {s : State} (h : s.seq.phase ≠ .rest) {es : List Event} (hs : s.world.script = .wait :: es) :
    step s = .next (engineStep { s with world := { s.world with script := es } }) := by
  unfold step nextStep
  rw [if_neg h]
  simp only [hs, runDuring, State.advance, List.tail_cons]

/-- All a step can be while a transaction is in progress: an act of the host, or the block's step, `world` being the script
with `wait` used up or as it was. -/
theorem step_inProgress_cases {s t : State} (h : s.seq.phase ≠ .rest) (hs : step s = .next t) :
    (∃ a es, s.world.script = .now a :: es ∧ runAct a { s with world := { s.world with script := es } } = .next t) ∨
    (∃ w : World, t = engineStep { s with world := w }) := by
  cases hu : s.undisturbed with
  | true => rw [step_inProgress h hu] at hs; cases hs; exact .inr ⟨s.world, rfl⟩
  | false =>
    unfold State.undisturbed at hu
    split at hu
    · cases hu
    · rename_i e es he
      cases e with
      | now a => rw [step_now he] at hs; exact .inl ⟨a, es, he, hs⟩
      | wait => rw [step_wait h he] at hs; cases hs; exact .inr ⟨_, rfl⟩
      | write _ => cases hu
      | read _ => cases hu
      | arrive _ => cases hu
      | offer => cases hu
      | offerStepwise => cases hu
      | frame _ _ => cases hu

theorem step_event {s : State} (h : s.seq.phase = .rest) {e : Event} {es : List Event} (hs : s.world.script = e :: es) :
    step s = runEvent e { s with world := { s.world with script := es } } := by
  unfold step nextStep
  rw [if_pos h, hs]
  simp only [State.advance, hs, List.tail_cons]

theorem step_nothing {s : State} (h : s.seq.phase = .rest) (hs : s.world.script = []) : step s = .next s := by
  unfold step nextStep
  rw [if_pos h, hs]

/-- Words that decode run as their instruction. -/
theorem runWords_of_decode {ws : Words} {s : State} {i : Instr} (h : decode s.cfg.version s.cfg.crcSpan ws = .ok i) :
    runWords ws s = exec i s := by
  unfold runWords
  rw [h]

/-- All running words to a next state can be: an instruction, or DECODE on received bytes. -/
theorem runWords_cases {ws : Words} {s t : State} (h : runWords ws s = .next t) :
    (∃ i, exec i s = .next t) ∨ (∃ b, exec .decode (s.storeRx b) = .next t) := by
  unfold runWords at h
  split at h
  · exact .inl ⟨_, h⟩
  · cases h
  · split at h
    · unfold decodeCall at h
      split at h
      · exact .inr ⟨_, h⟩
      · cases h
    · cases h
  · cases h

/-- All the first step of a transaction can be. -/
theorem beginTransaction_cases {k : Transaction} {s t : State} (h : beginTransaction k s = .next t) :
    (s.ready = true ∧ widthCheck k s.ops = false ∧ t = deliver .widthMismatch (s.setCmd k.code).accept) ∨
    (Transacts k s ∧ t = (s.started k).setPhase .write) := by
  unfold beginTransaction at h
  obtain ⟨hr, h⟩ := offer_eq_next h
  have hr : s.ready = true := hr
  have hwc : widthCheck k (s.setCmd k.code).accept.ops = widthCheck k s.ops := widthCheck_setCmd k s.ops k.code
  have haf : addressFits (s.setCmd k.code).accept.cfg.version (s.setCmd k.code).accept.ops =
    addressFits s.cfg.version s.ops := addressFits_setCmd _ s.ops k.code
  rw [hwc, haf] at h
  cases hw : widthCheck k s.ops with
  | false => rw [hw] at h; cases h; exact .inl ⟨hr, rfl, rfl⟩
  | true =>
    cases ha : addressFits s.cfg.version s.ops with
    | false => rw [hw, ha] at h; cases h
    | true => rw [hw, ha] at h; cases h; exact .inr ⟨⟨hr, hw, ha⟩, rfl⟩

/-- One step more of a run. -/
theorem run_succ {m : Nat} {u v : State} (h : step u = .next v) :
    Host.Core.run Sys2Proof.core (m + 1) u = Host.Core.run Sys2Proof.core m v := by
  have h' : Sys2Proof.core.step u = .next v := h
  simp only [Host.Core.run]
  split
  · rename_i x hx; rw [hx] at h'; cases h'; rfl
  · rename_i x hx; rw [hx] at h'; cases h'
  · rename_i x hx; rw [hx] at h'; cases h'

end Sys2Proof.Machine
end

