-- ==== Sys2Proof/Tests/Slice0.lean ====
section
/-!
SUPPORT. The model's own tests: ill-formed terms that `wf` refuses, words written out from the spec that decode, the vectors of
`95_test_vectors.md` (named in each section), and for each statement with hypotheses a witness that meets them together.
-/
namespace Sys2Proof.Tests

set_option Elab.async false

open Sys2Proof.Machine

/-! ## Helpers -/

/-- A v1 configuration with a resync window. -/
def cfg1 (window : Nat) : Cfg := { Config.default with resyncWindow := window }

/-- A v2 configuration with a resync window, under this hardware's CRC span. -/
def cfg2 (window : Nat) : Cfg := { Config.default with version := .v2, resyncWindow := window }

/-- A fresh instance with `rx` unread in the transport. -/
def fresh (cfg : Cfg) (rx : List Byte) : State := State.construct cfg { Transport.quiet with unread := rx }

/-- The operands of READ_DATA and WRITE_DATA. -/
def State.given (s : State) (id : Byte) (addr : Word16) (regw reqw : BitVec 3) (value : Word32) : State :=
  { s with ops := { s.ops with id := id, addr := addr, regw := regw, reqw := reqw, value := value } }

/-- The operands of ENCODE. -/
def State.givenParams (s : State) (id opcode : Byte) (params : List Byte) : State :=
  s.withOps (s.ops.loadEncode id opcode params)

/-- What the outside world does next. -/
def State.scripted (s : State) (es : List Event) : State := { s with world := { s.world with script := es } }

/-- The run of one step ends in a next state that passes the test. -/
def ends (o : Out) (f : State → Bool) : Bool :=
  match o with
  | .next t => f t
  | .fault _ => false
  | .refused _ => false

/-- The step is refused for that reason. -/
def refuses (o : Out) (r : Refusal) : Bool :=
  match o with
  | .next _ => false
  | .fault _ => false
  | .refused r' => r' == r

theorem exists_of_ends {o : Out} {f : State → Bool} (h : ends o f = true) : ∃ t, o = .next t ∧ f t = true := by
  cases o with
  | next t => exact ⟨t, rfl, h⟩
  | fault _ => exact absurd h (by simp [ends])
  | refused _ => exact absurd h (by simp [ends])

/-- The sizes of the reads made, oldest first. -/
def readSizes (t : State) : List Nat :=
  t.transport.log.filterMap (fun e => match e with | .rxRead n _ _ => some n | .txWrite _ _ => none)

/-- The frames written, oldest first. -/
def writes (t : State) : List (List Byte) :=
  t.transport.log.filterMap (fun e => match e with | .txWrite f _ => some f | .rxRead _ _ _ => none)

/-- `phaseTxn` can be decided. -/
def phaseTxnDec : (p : Phase) → (t : TxnState) → Decidable (phaseTxn p t)
  | .rest, t => inferInstanceAs (Decidable (t = .idle))
  | .write, t => inferInstanceAs (Decidable (t = .idle))
  | .sent, t => inferInstanceAs (Decidable (t = .sent))
  | .huntNext, t => inferInstanceAs (Decidable (t = .awaitingResponse))
  | .afterHeader, t => inferInstanceAs (Decidable (t = .awaitingResponse))
  | .body _, t => inferInstanceAs (Decidable (t = .awaitingResponse))
  | .deliver .okEncode, _ => .isFalse id
  | .deliver (.okDecode _), _ => .isFalse id
  | .deliver (.okRead _), t => inferInstanceAs (Decidable (t = .decoded))
  | .deliver .okWrite, t => inferInstanceAs (Decidable (t = .decoded))
  | .deliver (.frameError _), t => inferInstanceAs (Decidable (t = .malformed))
  | .deliver .timeout, t => inferInstanceAs (Decidable (t = .timedOut))
  | .deliver (.motorError _), t => inferInstanceAs (Decidable (t = .decoded))
  | .deliver (.unexpectedId _), t => inferInstanceAs (Decidable (t = .decoded))
  | .deliver .widthMismatch, _ => .isFalse id
  | .deliver .ioError, t => inferInstanceAs (Decidable (t = .ioFailed))

/-- `phaseCounters`, checked. -/
def countersOk (cfg : Cfg) (q : Sequencer) : Bool :=
  match q.phase with
  | .huntNext =>
    decide (q.hunt.length = headerLen cfg.version ∧ q.hunt ≠ mark cfg.version ∧ q.resyncCnt < cfg.resyncWindow ∧
      q.deadline = cfg.timeout)
  | .afterHeader => decide (q.hunt = mark cfg.version ∧ q.resyncCnt ≤ cfg.resyncWindow ∧ q.deadline = cfg.timeout)
  | .body p =>
    decide (q.hunt = mark cfg.version ∧ q.resyncCnt ≤ cfg.resyncWindow ∧ q.deadline = cfg.timeout ∧
      p.length = prefixLen cfg.version ∧ minStatusLen cfg.version ≤ lenField cfg.version p)
  | .rest => true
  | .write => true
  | .sent => true
  | .deliver _ => true

theorem counters_of_ok {cfg : Cfg} {q : Sequencer} (h : countersOk cfg q = true) : phaseCounters cfg q := by
  unfold countersOk at h
  unfold phaseCounters
  split at h <;> simp_all

/-- `State.Inv`, checked. -/
def legal (s : State) : Bool :=
  (Memory.wf s.ops.pbuf && Memory.wf s.bufs.tx && Memory.wf s.bufs.rx && Memory.wf s.res.params) &&
  (decide ((s.flags.busy = true ↔ s.seq.phase ≠ .rest) ∧ (s.flags.busy = true → s.flags.done = false) ∧
    (s.seq.phase ≠ .rest → s.ops.cmd = 3 ∨ s.ops.cmd = 4) ∧ s.accs.ffcnt ≠ 3 ∧ s.bufs.txlen ≤ frameCapacity s.cfg.version ∧
    (ResReg.params ∈ s.res.specified → s.res.plen.toNat ≤ 65531)) &&
  (@decide _ (phaseTxnDec s.seq.phase s.seq.txn) && countersOk s.cfg s.seq))

theorem inv_of_legal {s : State} (h : legal s = true) : s.Inv := by
  simp only [legal, Bool.and_eq_true, decide_eq_true_iff] at h
  obtain ⟨⟨⟨⟨h1, h2⟩, h3⟩, h4⟩, ⟨h5, h6, h7, h8, h9, h10⟩, h11, h12⟩ := h
  exact ⟨h1, h2, h3, h4, h5, h6, h11, counters_of_ok h12, h7, h8, h9, h10⟩

theorem legal_of_ends {o : Out} {f : State → Bool} (h : ends o (fun t => legal t && f t) = true) : ∃ t : State, t.Inv ∧ f t = true := by
  obtain ⟨t, -, ht⟩ := exists_of_ends h
  rw [Bool.and_eq_true] at ht
  exact ⟨t, inv_of_legal ht.1, ht.2⟩

/-- Zeros are never stuffed. -/
theorem stuff_zeros (n : Nat) : stuff (List.replicate n 0) = List.replicate n 0 := by
  induction n with
  | zero => rfl
  | succ n ih =>
    rw [List.replicate_succ, stuff, stuffFrom_plain _ (by decide), show ffNext 0 (0 : Byte) = 0 from rfl]
    exact congrArg _ ih

/-! ## Well-formedness: an ill-formed term for each check -/

theorem test_wf_v1Instruction_too_long : (Instr.v1Instruction 1 3 (List.replicate 254 0)).wf = false := by decide +kernel
theorem test_wf_v1Instruction_longest : (Instr.v1Instruction 1 3 (List.replicate 253 0)).wf = true := by decide +kernel
theorem test_wf_v1Instruction_is_a_read : (Instr.v1Instruction 1 2 [0x24, 2]).wf = false := by decide
theorem test_wf_v1Instruction_is_a_write : (Instr.v1Instruction 1 3 [0x1E, 0, 2]).wf = false := by decide
theorem test_wf_v1Status_too_long : (Instr.v1Status 1 0 (List.replicate 254 0)).wf = false := by decide +kernel
theorem test_wf_v2Instruction_is_a_read : (Instr.v2Instruction 1 2 [0x84, 0, 4, 0]).wf = false := by decide +kernel
theorem test_wf_v2Instruction_is_a_write : (Instr.v2Instruction 1 3 [0x40, 0, 1]).wf = false := by decide +kernel
theorem test_wf_v2Instruction_no_width_three : (Instr.v2Instruction 1 2 [0x84, 0, 3, 0]).wf = true := by decide +kernel

/-- More zeros than the length field can carry. -/
theorem zeros_outside (n : Nat) (h : 65532 < n) : inDomainV2 (List.replicate n 0) = false := by
  rw [← Bool.not_eq_true, inDomainV2_iff, stuff_zeros, List.length_replicate]; omega

/-- As many zeros as it can. -/
theorem zeros_inside (n : Nat) (h : n ≤ 65532) : inDomainV2 (List.replicate n 0) = true := by
  rw [inDomainV2_iff, stuff_zeros, List.length_replicate]; exact h

theorem wf_v2Instruction_zeros (n : Nat) (h : 65532 < n) : (Instr.v2Instruction 1 5 (List.replicate n 0)).wf = false := by
  simp only [Instr.wf, zeros_outside n h, Bool.false_and]

theorem wf_v2Status_zeros (n : Nat) (h : 65532 ≤ n) : (Instr.v2Status 1 0x55 0 (List.replicate n 0)).wf = false := by
  simp only [Instr.wf, ← List.replicate_succ]; exact zeros_outside (n + 1) (by omega)

theorem test_wf_v2Instruction_too_long : (Instr.v2Instruction 1 5 (List.replicate 65533 0)).wf = false :=
  wf_v2Instruction_zeros 65533 (by decide)

theorem test_wf_v2Status_too_long : (Instr.v2Status 1 0x55 0 (List.replicate 65532 0)).wf = false :=
  wf_v2Status_zeros 65532 (by decide)

/-! ## Decoding: a word for every constructor, from `30_encoding.md` R49 to R56, R60 and `95_test_vectors.md` L2-F2, L2-F3 -/

/-- The decoder of a version under this hardware's CRC span. -/
def reads (v : Version) (side : Side) (b : List Byte) (i : Instr) : Bool :=
  decide ((decode v .afterHeader (.frame side b)).toOption = some i)

theorem test_decode_encode : decodeTableWord 8 0b001 = some .encode := by decide
theorem test_decode_decode : decodeTableWord 8 0b010 = some .decode := by decide
theorem test_decode_readData : decodeTableWord 8 0b011 = some .readData := by decide
theorem test_decode_writeData : decodeTableWord 8 0b100 = some .writeData := by decide
theorem test_decode_reserved_codes :
    [0, 5, 6, 7].map (fun w => decodeTableWord 8 w) = [none, none, none, none] := by decide

theorem test_decode_v1Instruction :
    reads .v1 .tx [0xFF, 0xFF, 0x01, 0x02, 0x01, 0xFB] (.v1Instruction 0x01 0x01 []) = true := by decide +kernel
theorem test_decode_v1Status :
    reads .v1 .rx [0xFF, 0xFF, 0x01, 0x02, 0x20, 0xDC] (.v1Status 0x01 0x20 []) = true := by decide +kernel
theorem test_decode_v2Instruction :
    reads .v2 .tx [0xFF, 0xFF, 0xFD, 0x00, 0x01, 0x05, 0x00, 0xFF, 0xFF, 0xFD, 0x95, 0xF5]
      (.v2Instruction 0x01 0xFF [0xFF, 0xFD]) = true := by decide +kernel
theorem test_decode_v2Status :
    reads .v2 .rx [0xFF, 0xFF, 0xFD, 0x00, 0x01, 0x08, 0x00, 0x55, 0xFF, 0xFF, 0xFD, 0xFD, 0x00, 0x28, 0xB8]
      (.v2Status 0x01 0x55 0xFF [0xFF, 0xFD, 0x00]) = true := by decide +kernel
theorem test_decode_readV1 :
    reads .v1 .tx [0xFF, 0xFF, 0x01, 0x04, 0x02, 0x24, 0x02, 0xD2] (.readV1 0x01 0x24 .w2) = true := by decide +kernel
theorem test_decode_readV2 :
    reads .v2 .tx [0xFF, 0xFF, 0xFD, 0x00, 0x01, 0x07, 0x00, 0x02, 0x84, 0x00, 0x04, 0x00, 0xB9, 0xDF]
      (.readV2 0x01 0x0084 .w4) = true := by decide +kernel
theorem test_decode_writeV1W1 :
    reads .v1 .tx [0xFF, 0xFF, 0x01, 0x04, 0x03, 0x19, 0x01, 0xDD] (.writeV1W1 0x01 0x19 0x01) = true := by decide +kernel
theorem test_decode_writeV1W2 :
    reads .v1 .tx [0xFF, 0xFF, 0xFE, 0x05, 0x03, 0x1E, 0x00, 0x02, 0xD9] (.writeV1W2 0xFE 0x1E 0x0200) = true := by
  decide +kernel
theorem test_decode_writeV1W4 :
    reads .v1 .tx [0xFF, 0xFF, 0x02, 0x07, 0x03, 0x10, 0x78, 0x56, 0x34, 0x12, 0xCF] (.writeV1W4 0x02 0x10 0x12345678) = true := by
  decide +kernel
theorem test_decode_writeV2W1 :
    reads .v2 .tx [0xFF, 0xFF, 0xFD, 0x00, 0x01, 0x06, 0x00, 0x03, 0x40, 0x00, 0x01, 0x10, 0x28]
      (.writeV2W1 0x01 0x0040 0x01) = true := by decide +kernel
theorem test_decode_writeV2W2 :
    reads .v2 .tx [0xFF, 0xFF, 0xFD, 0x00, 0x01, 0x07, 0x00, 0x03, 0x64, 0x00, 0x34, 0x12, 0x80, 0x7F]
      (.writeV2W2 0x01 0x0064 0x1234) = true := by decide +kernel
theorem test_decode_writeV2W4_stuffed :
    reads .v2 .tx [0xFF, 0xFF, 0xFD, 0x00, 0xFE, 0x0A, 0x00, 0x03, 0x74, 0x00, 0x00, 0xFF, 0xFF, 0xFD, 0xFD, 0x46, 0x56]
      (.writeV2W4 0xFE 0x0074 0xFDFFFF00) = true := by decide +kernel

/-- The same frame in a table word, first byte in the least significant bits. -/
theorem test_table_word_of_a_frame : decodeTableWord 64 0xD20224020401FFFF = some (.readV1 0x01 0x24 .w2) := by
  decide +kernel

/-- From `95_test_vectors.md` P1: the staged word is what the next step runs. -/
theorem test_fetch_word_runs : ends (step (State.reset.withFetchWord 64 0xD20224020401FFFF))
    (fun t => decide (writes t = [[0xFF, 0xFF, 0x01, 0x04, 0x02, 0x24, 0x02, 0xD2]])) = true := by decide +kernel

/-- From P8 step 5: DECODE of an empty buffer, staged by its code. -/
theorem test_fetch_code_runs : ends (step (State.reset.withFetchWord 8 2))
    (fun t => decide (t.res.kind = .frameError ∧ t.res.cause = .header)) = true := by decide +kernel

/-! ## The codecs' failures, from L2-F2 and L2-F3 -/

/-- `DEC_V1` fails with that cause. -/
def fails1 (b : List Byte) (c : Cause) : Bool := match decV1 b with | .error c' => c' == c | .ok _ => false
/-- `DEC_V2` fails with that cause. -/
def fails2 (b : List Byte) (c : Cause) : Bool := match decV2 .afterHeader b with | .error c' => c' == c | .ok _ => false

theorem test_v1_header : fails1 [0xFF, 0xFE, 0x01, 0x02, 0x00, 0xFC] .header = true := by decide
theorem test_v1_truncated : fails1 [0xFF, 0xFF, 0x01, 0x04, 0x00, 0xB4, 0x02] .length = true := by decide
theorem test_v1_trailing_byte : fails1 [0xFF, 0xFF, 0x01, 0x04, 0x00, 0xB4, 0x02, 0x44, 0x00] .length = true := by decide
theorem test_v1_printed_literal : fails1 [0xFF, 0xFF, 0x01, 0x04, 0x00, 0xB4, 0x02, 0x6C] .check = true := by decide +kernel
theorem test_v2_reserved_byte :
    fails2 [0xFF, 0xFF, 0xFD, 0x01, 0x01, 0x08, 0x00, 0x55, 0x00, 0xA6, 0x00, 0x00, 0x00, 0x30, 0x66] .header = true := by
  decide +kernel
theorem test_v2_truncated :
    fails2 [0xFF, 0xFF, 0xFD, 0x00, 0x01, 0x08, 0x00, 0x55, 0x00, 0xA6, 0x00, 0x00, 0x00, 0x30] .length = true := by
  decide +kernel
theorem test_v2_crc_high_bit :
    fails2 [0xFF, 0xFF, 0xFD, 0x00, 0x01, 0x08, 0x00, 0x55, 0x00, 0xA6, 0x00, 0x00, 0x00, 0x30, 0xE6] .check = true := by
  decide +kernel
theorem test_v2_trigger_unescaped :
    fails2 [0xFF, 0xFF, 0xFD, 0x00, 0x01, 0x08, 0x00, 0x55, 0x00, 0xFF, 0xFF, 0xFD, 0x01, 0x2E, 0x90] .unstuff = true := by
  decide +kernel
theorem test_v2_trigger_at_the_end :
    fails2 [0xFF, 0xFF, 0xFD, 0x00, 0x01, 0x07, 0x00, 0x55, 0x00, 0xFF, 0xFF, 0xFD, 0x63, 0x83] .unstuff = true := by
  decide +kernel
theorem test_v2_instruction_frame_as_status :
    decide ((decV2 .afterHeader [0xFF, 0xFF, 0xFD, 0x00, 0x01, 0x07, 0x00, 0x02, 0x84, 0x00, 0x04, 0x00, 0xB9, 0xDF]).toOption =
      some { id := 0x01, instr := some 0x02, error := 0x84, params := [0x00, 0x04, 0x00] }) = true := by decide +kernel

/-! ## The units, from L2-K, L2-C, L2-S, L2-W -/

theorem test_checksum_truncates : checksumV1 [0xFE, 0x05, 0x03, 0x1E, 0x00, 0x02] = 0xD9 := by decide +kernel
theorem test_crc_check_string : crcV2 [0x31, 0x32, 0x33, 0x34, 0x35, 0x36, 0x37, 0x38, 0x39] = 0xFEE8 := by decide +kernel
theorem test_crc_whole_frame :
    crcV2 [0xFF, 0xFF, 0xFD, 0x00, 0x01, 0x07, 0x00, 0x02, 0x84, 0x00, 0x04, 0x00] = 0x151D := by decide +kernel
theorem test_stuff_twice : stuff [0xFF, 0xFF, 0xFF, 0xFD, 0xFF, 0xFF, 0xFD, 0xFD] =
    [0xFF, 0xFF, 0xFF, 0xFD, 0xFD, 0xFF, 0xFF, 0xFD, 0xFD, 0xFD] := by decide
theorem test_stuff_no_trigger : stuff [0xFF, 0xFD, 0xFF, 0xFF, 0x00, 0xFD] = [0xFF, 0xFD, 0xFF, 0xFF, 0x00, 0xFD] := by decide
theorem test_le_bytes : leBytes 0x12345678 4 = [0x78, 0x56, 0x34, 0x12] := by decide
theorem test_le_value_no_sign : leValue [0xFF] = 0x000000FF := by decide

/-! ## One step of each instruction, from P1 to P8, L2-E -/

/-- P8 step 1. -/
theorem test_encode : ends (exec .encode (State.givenParams (fresh (cfg1 0) []) 0x01 0x02 [0x24, 0x02]))
    (fun t => decide (t.txFrame = [0xFF, 0xFF, 0x01, 0x04, 0x02, 0x24, 0x02, 0xD2] ∧ t.bufs.txlen = 8 ∧ t.res.kind = .ok ∧
      t.transport.log = [])) = true := by decide +kernel

/-- L2-F3, the row with one byte stuffed; `FFCNT` ends at 0. -/
theorem test_encode_v2 : ends (exec .encode (State.givenParams (fresh (cfg2 0) []) 0x01 0x03 [0x74, 0x00, 0xFF, 0xFF, 0xFD, 0x00]))
    (fun t => decide (t.txFrame = [0xFF, 0xFF, 0xFD, 0x00, 0x01, 0x0A, 0x00, 0x03, 0x74, 0x00, 0xFF, 0xFF, 0xFD, 0xFD, 0x00, 0xA0, 0xB0] ∧
      t.accs.crc16 = 0xB0A0 ∧ t.accs.ffcnt = 0)) = true := by decide +kernel

/-- P8 step 2. -/
theorem test_decode_ok : ends (exec .decode ((fresh (cfg1 0) []).storeRx [0xFF, 0xFF, 0x01, 0x04, 0x00, 0xB4, 0x02, 0x44]))
    (fun t => decide (t.res.kind = .ok ∧ t.res.id = 0x01 ∧ t.res.err = 0x00 ∧ t.resParams = [0xB4, 0x02] ∧
      readable t .instr = false)) = true := by decide +kernel

/-- P8 step 3. -/
theorem test_decode_check : ends (exec .decode ((fresh (cfg1 0) []).storeRx [0xFF, 0xFF, 0x01, 0x04, 0x00, 0xB4, 0x02, 0x6C]))
    (fun t => decide (t.res.kind = .frameError ∧ t.res.cause = .check ∧ readable t .err = false)) = true := by decide +kernel

/-- P2 with a window of 3. -/
theorem test_readData_resync : ends (exec .readData (State.given (fresh (cfg1 3)
      [0x00, 0xFF, 0x37, 0xFF, 0xFF, 0x01, 0x02, 0x20, 0xDC]) 0x01 0x0024 2 2 0))
    (fun t => decide (readSizes t = [2, 1, 1, 1, 2, 2] ∧ t.res.kind = .motorError ∧ t.res.err = 0x20 ∧ t.seq.resyncCnt = 3 ∧
      t.transport.unread = [])) = true := by decide +kernel

/-- P1. -/
theorem test_readData_ok : ends (exec .readData (State.given (fresh (cfg1 0)
      [0xFF, 0xFF, 0x01, 0x04, 0x00, 0xB4, 0x02, 0x44]) 0x01 0x0024 2 2 0))
    (fun t => decide (writes t = [[0xFF, 0xFF, 0x01, 0x04, 0x02, 0x24, 0x02, 0xD2]] ∧ readSizes t = [2, 2, 4] ∧
      t.res.kind = .ok ∧ t.res.value = 0x02B4 ∧ t.seq.reqId = 0x01 ∧ t.seq.reqW = 2)) = true := by decide +kernel

/-- E8. -/
theorem test_writeData_ok : ends (exec .writeData (State.given (fresh (cfg1 0)
      [0xFF, 0xFF, 0x01, 0x03, 0x00, 0x05, 0xF6]) 0x01 0x0019 1 1 1))
    (fun t => decide (writes t = [[0xFF, 0xFF, 0x01, 0x04, 0x03, 0x19, 0x01, 0xDD]] ∧ readSizes t = [2, 2, 3] ∧
      t.res.kind = .ok)) = true := by decide +kernel

/-- P3. -/
theorem test_writeData_broadcast : ends (exec .writeData (State.given (fresh (cfg2 0) [0xAA, 0xBB]) 0xFE 0x0074 4 4 0xFDFFFF00))
    (fun t => decide (writes t = [[0xFF, 0xFF, 0xFD, 0x00, 0xFE, 0x0A, 0x00, 0x03, 0x74, 0x00, 0x00, 0xFF, 0xFF, 0xFD, 0xFD, 0x46, 0x56]] ∧
      readSizes t = [] ∧ t.res.kind = .ok ∧ t.bufs.txlen = 17 ∧ t.transport.unread = [0xAA, 0xBB])) = true := by decide +kernel

theorem test_v1Instruction : ends (exec (.v1Instruction 0x01 0x01 []) (fresh (cfg1 0) []))
    (fun t => decide (t.txFrame = [0xFF, 0xFF, 0x01, 0x02, 0x01, 0xFB] ∧ t.transport.log = [])) = true := by decide +kernel

theorem test_v2Instruction : ends (exec (.v2Instruction 0x01 0x01 []) (fresh (cfg2 0) []))
    (fun t => decide (t.txFrame = [0xFF, 0xFF, 0xFD, 0x00, 0x01, 0x03, 0x00, 0x01, 0x3A, 0x14])) = true := by decide +kernel

theorem test_v1Status : ends (exec (.v1Status 0x01 0x20 []) (fresh (cfg1 0) []))
    (fun t => decide (t.res.kind = .ok ∧ t.res.err = 0x20)) = true := by decide +kernel

theorem test_v2Status : ends (exec (.v2Status 0x01 0x02 0x84 [0x00, 0x04, 0x00]) (fresh (cfg2 0) []))
    (fun t => decide (t.res.kind = .ok ∧ t.res.instr = 0x02 ∧ t.res.err = 0x84)) = true := by decide +kernel

/-- E3: the ID is tested before the error field. -/
theorem test_readV1 : ends (exec (.readV1 0x01 0x24 .w2) (fresh (cfg1 0) [0xFF, 0xFF, 0x02, 0x04, 0x20, 0xB4, 0x02, 0x23]))
    (fun t => decide (t.res.kind = .unexpectedId ∧ t.res.id = 0x02)) = true := by decide +kernel

/-- E10. -/
theorem test_readV2 : ends (exec (.readV2 0x01 64 .w1) (fresh (cfg2 2)
      [0x12, 0x34, 0xFF, 0xFF, 0xFD, 0x00, 0x01, 0x05, 0x00, 0x55, 0x00, 0x01, 0x9A, 0x7D]))
    (fun t => decide (readSizes t = [4, 1, 1, 3, 5] ∧ t.res.kind = .ok ∧ t.res.value = 1 ∧ t.seq.resyncCnt = 2)) = true := by
  decide +kernel

/-- E8 as a frame row. -/
theorem test_writeV1W1 : ends (exec (.writeV1W1 0x01 0x19 0x01) (fresh (cfg1 0) [0xFF, 0xFF, 0x01, 0x02, 0x00, 0xFC]))
    (fun t => decide (writes t = [[0xFF, 0xFF, 0x01, 0x04, 0x03, 0x19, 0x01, 0xDD]] ∧ t.res.kind = .ok)) = true := by decide +kernel

/-- E13. -/
theorem test_writeV1W2 : ends (exec (.writeV1W2 0xFE 0x1E 0x0200) (fresh (cfg1 0) []))
    (fun t => decide (writes t = [[0xFF, 0xFF, 0xFE, 0x05, 0x03, 0x1E, 0x00, 0x02, 0xD9]] ∧ readSizes t = [])) = true := by
  decide +kernel

/-- L2-F2; nothing comes back. -/
theorem test_writeV1W4 : ends (exec (.writeV1W4 0x02 0x10 0x12345678) (fresh (cfg1 0) []))
    (fun t => decide (writes t = [[0xFF, 0xFF, 0x02, 0x07, 0x03, 0x10, 0x78, 0x56, 0x34, 0x12, 0xCF]] ∧ t.res.kind = .timeout)) = true := by
  decide +kernel

/-- E12. -/
theorem test_writeV2W1 : ends (exec (.writeV2W1 0x01 64 0x01) (fresh (cfg2 0)
      [0xFF, 0xFF, 0xFD, 0x00, 0x01, 0x04, 0x00, 0x55, 0x87, 0x6F, 0x2D]))
    (fun t => decide (readSizes t = [4, 3, 4] ∧ t.res.kind = .motorError ∧ t.res.err = 0x87)) = true := by decide +kernel

/-- P5 step 1. -/
theorem test_writeV2W2 : ends (exec (.writeV2W2 0x01 0x0064 0x1234) (fresh (cfg2 0)
      [0xFF, 0xFF, 0xFD, 0x00, 0x01, 0x04, 0x00, 0x55, 0x00, 0x7D, 0x2E]))
    (fun t => decide (writes t = [[0xFF, 0xFF, 0xFD, 0x00, 0x01, 0x07, 0x00, 0x03, 0x64, 0x00, 0x34, 0x12, 0x80, 0x7F]] ∧
      t.res.kind = .ok)) = true := by decide +kernel

/-- L2-F3. -/
theorem test_writeV2W4 : ends (exec (.writeV2W4 0x01 0x0074 2048) (fresh (cfg2 0) []))
    (fun t => decide (writes t = [[0xFF, 0xFF, 0xFD, 0x00, 0x01, 0x09, 0x00, 0x03, 0x74, 0x00, 0x00, 0x08, 0x00, 0x00, 0x96, 0x36]])) = true := by
  decide +kernel

/-- `10_state.md` R17: a host read of a register with no specified value is a fault. -/
theorem test_hostRead_unspecified : hostRead .value State.reset = .fault (.unspecifiedRead .value) := by rfl

/-- L2-F2, last row: refused, LEN is not wrapped. -/
theorem test_encode_254 : refuses (exec .encode (State.givenParams (fresh (cfg1 0) []) 0x01 0x03 (List.replicate 254 0)))
    .encodeDomain = true := by decide +kernel

/-! ## Witnesses: the hypotheses of each statement are met together -/

/-- The good v1 reply of P1, and the good v2 reply of L2-F3, row 5. -/
def reply1 : List Byte := [0xFF, 0xFF, 0x01, 0x04, 0x00, 0xB4, 0x02, 0x44]
def reply2 : List Byte := [0xFF, 0xFF, 0xFD, 0x00, 0x01, 0x05, 0x00, 0x55, 0x00, 0x01, 0x9A, 0x7D]

/-- A v1 instance about to read two bytes at `0x24` of motor 1, the value register holding what will be read. -/
def reader1 (window : Nat) (rx : List Byte) : State := State.given (fresh (cfg1 window) rx) 0x01 0x0024 2 2 0x02B4

/-- A v2 instance about to read one byte at 64 of motor 1. -/
def reader2 (window : Nat) (rx : List Byte) : State := State.given (fresh (cfg2 window) rx) 0x01 0x0040 1 1 0x01

/-- A transaction of `s` after `n` single steps. -/
def stepped (k : Transaction) (n : Nat) (s : State) : Out :=
  match beginTransaction k s with
  | .next a => Host.Core.run Sys2Proof.core n a
  | .fault f => .fault f
  | .refused r => .refused r

/-- The transaction after `n` single steps is in a legal state, in that phase. -/
def reaches (k : Transaction) (n : Nat) (s : State) (p : Phase) : Bool :=
  ends (stepped k n s) (fun t => legal t && decide (t.seq.phase = p))

theorem witness_ChecksumIsComplementOfTruncatedSum : [0x80, 0x7F].Perm ([0x7F, 0x80] : List Byte) := List.Perm.swap _ _ _

theorem witness_CrcIsLinearAndIgnoresLeadingZeros : ([0x01, 0x02] : List Byte).length = ([0xFF, 0x00] : List Byte).length := rfl

theorem witness_CheckBytesVerifyByComparison :
    (3 ≤ ([0xFF, 0xFF, 0xFF] : List Byte).length ∧ 3 ≤ reply1.length) ∧
    (6 ≤ ([0x00, 0x00, 0x00, 0x00, 0x00, 0x00] : List Byte).length ∧ 6 ≤ reply2.length) := by decide

theorem witness_UnstuffUndoesStuff : stuff [0xFF, 0xFF, 0xFD] = [] ++ [0xFF, 0xFF, 0xFD, 0xFD] ++ [] := by decide

theorem witness_LittleEndianCutAndJoin :
    ((0xFF : Word32).toNat < 2 ^ (8 * widthBytes .w1) ∧ (0xFFFF : Word32).toNat < 2 ^ (8 * widthBytes .w2) ∧
      (0xFFFFFFFF : Word32).toNat < 2 ^ (8 * widthBytes .w4)) ∧
    (([0x00] : List Byte).length = widthBytes .w1 ∧ ([0xB4, 0x02] : List Byte).length = widthBytes .w2 ∧
      ([0xFF, 0xFF, 0xFF, 0xFF] : List Byte).length = widthBytes .w4) := by decide

theorem witness_V1StatusRoundTrip : (List.replicate 253 (0xFF : Byte)).length ≤ 253 ∧ ([] : List Byte).length ≤ 253 := by
  decide +kernel

theorem region_of_zeros (n : Nat) (h : n ≤ 65531) : (stuff (0x00 :: List.replicate n 0)).length ≤ 65532 := by
  rw [← List.replicate_succ, stuff_zeros, List.length_replicate]; omega

/-- The longest region there is, and one in which the trigger spans the error byte and the parameters. -/
theorem witness_V2StatusRoundTrip :
    (∃ params : List Byte, 65531 ≤ params.length ∧ (stuff (0x00 :: params)).length ≤ 65532) ∧
    (stuff (0xFF :: [0xFF, 0xFD, 0x00])).length ≤ 65532 :=
  ⟨⟨_, (List.length_replicate (n := 65531) (a := (0 : Byte))).ge, region_of_zeros 65531 (Nat.le_refl _)⟩, by decide⟩

theorem witness_V1DecoderAcceptsExactlyEncodedFrames :
    decV1 reply1 = .ok { id := 0x01, instr := none, error := 0x00, params := [0xB4, 0x02] } := by decide +kernel

theorem witness_V2DecoderAcceptsExactlyEncodedFrames :
    decV2 .afterHeader reply2 = .ok { id := 0x01, instr := some 0x55, error := 0x00, params := [0x01] } := by decide +kernel

/-- One place for each of the four causes' ranges, at their boundaries. -/
theorem witness_V1SingleBitFlipIsFrameError : (decV1 reply1).isOk = true ∧
    (0 < reply1.length ∧ 1 < reply1.length ∧ 2 < reply1.length ∧ 3 < reply1.length ∧ 4 < reply1.length ∧ 7 < reply1.length) ∧
    (0 < 8 ∧ 7 < 8) := by decide +kernel

theorem witness_V2SingleBitFlipIsFrameError : (decV2 .afterHeader reply2).isOk = true ∧
    (0 < reply2.length ∧ 3 < reply2.length ∧ 4 < reply2.length ∧ 5 < reply2.length ∧ 6 < reply2.length ∧ 7 < reply2.length ∧
      11 < reply2.length) ∧ (0 < 8 ∧ 7 < 8) := by decide +kernel

theorem witness_V2TruncationIsFrameError : (decV2 .afterHeader reply2).isOk = true ∧
    (0 < reply2.length ∧ 3 < reply2.length ∧ 4 < reply2.length ∧ 11 < reply2.length) := by decide +kernel

theorem witness_DecodeOfEncodeIsTheInstruction :
    (Instr.wf .encode = true ∧ Instr.BelongsTo .encode .v2) ∧
    ((Instr.v1Status 0x01 0x00 [0xB4, 0x02]).wf = true ∧ Instr.BelongsTo (.v1Status 0x01 0x00 [0xB4, 0x02]) .v1) ∧
    ((Instr.v2Instruction 0xFF 0xFF [0xFF, 0xFF, 0xFD]).wf = true ∧
      Instr.BelongsTo (.v2Instruction 0xFF 0xFF [0xFF, 0xFF, 0xFD]) .v2) ∧
    ((Instr.writeV2W4 0xFE 0xFFFF 0xFDFFFF00).wf = true ∧ Instr.BelongsTo (.writeV2W4 0xFE 0xFFFF 0xFDFFFF00) .v2) := by
  decide +kernel

theorem witness_EncodeOfDecodeIsTheWords :
    (decode .v1 .afterHeader (.frame .rx reply1)).isOk = true ∧ (decode .v2 .afterHeader (.frame .rx reply2)).isOk = true ∧
    (decode .v2 .wholeFrame (.command 4)).isOk = true := by decide +kernel

/-- A legal state, with a step to a next state, for each phase of a transaction and at rest. -/
theorem witness_StepKeepsLegalStates :
    reaches .read 0 (reader1 1 (0x00 :: reply1)) .write = true ∧ reaches .read 1 (reader1 1 (0x00 :: reply1)) .sent = true ∧
    reaches .read 2 (reader1 1 (0x00 :: reply1)) .huntNext = true ∧
    reaches .read 3 (reader1 1 (0x00 :: reply1)) .afterHeader = true ∧
    reaches .read 4 (reader1 1 (0x00 :: reply1)) (.body [0x01, 0x04]) = true ∧
    reaches .read 5 (reader1 1 (0x00 :: reply1)) (.deliver (.okRead 0x02B4)) = true ∧
    (legal (State.scripted ((reader1 0 reply1).setCmd 3) [.offer]) = true ∧
      ends (step (State.scripted ((reader1 0 reply1).setCmd 3) [.offer])) (fun _ => true) = true) := by decide +kernel

/-- Each clause: an offered code, a frame, a READ_DATA and an ENCODE offered stepwise, a write and a read at rest and at once, an
offer at once, a `wait` at rest and in progress, a busy block left alone, a script used up. -/
theorem witness_StepRunsTheDecodedInstruction :
    (∃ s : State, s.seq.phase = .rest ∧ s.world.script = .offer :: [] ∧
      decode s.cfg.version s.cfg.crcSpan (.command s.ops.cmd) = .ok .decode) ∧
    (∃ s : State, s.seq.phase = .rest ∧ s.world.script = .frame .rx reply1 :: [] ∧
      decode s.cfg.version s.cfg.crcSpan (.frame .rx reply1) = .ok (.v1Status 0x01 0x00 [0xB4, 0x02])) ∧
    (∃ s : State, s.seq.phase = .rest ∧ s.world.script = .offerStepwise :: [] ∧ s.ops.cmd = Transaction.read.code) ∧
    (∃ s : State, s.seq.phase = .rest ∧ s.world.script = .offerStepwise :: [] ∧ s.ops.cmd ≠ 3 ∧ s.ops.cmd ≠ 4 ∧
      decode s.cfg.version s.cfg.crcSpan (.command s.ops.cmd) = .ok .encode) ∧
    (∃ s : State, s.seq.phase = .rest ∧ s.world.script = .write (.id 0x01) :: []) ∧
    (∃ s : State, s.seq.phase = .rest ∧ s.world.script = .read .done :: []) ∧
    (∃ s : State, s.seq.phase ≠ .rest ∧ s.world.script = .now (.write (.id 0x01)) :: []) ∧
    (∃ s : State, s.seq.phase ≠ .rest ∧ s.world.script = .now (.read .busy) :: []) ∧
    (∃ s : State, s.world.script = .now .offer :: [] ∧
      decode s.cfg.version s.cfg.crcSpan (.command s.ops.cmd) = .ok .writeData) ∧
    (∃ s : State, s.world.script = .wait :: [] ∧ s.seq.phase = .rest) ∧
    (∃ s : State, s.world.script = .wait :: [] ∧ s.seq.phase ≠ .rest) ∧
    (∃ s : State, s.seq.phase ≠ .rest ∧ s.undisturbed = true) ∧
    (∃ s : State, s.seq.phase = .rest ∧ s.world.script = []) :=
  ⟨⟨State.scripted (State.reset.setCmd 2) [.offer], rfl, rfl, rfl⟩,
    ⟨State.scripted State.reset [.frame .rx reply1], rfl, rfl, by decide +kernel⟩,
    ⟨State.scripted (State.reset.setCmd 3) [.offerStepwise], rfl, rfl, rfl⟩,
    ⟨State.scripted (State.reset.setCmd 1) [.offerStepwise], rfl, rfl, by decide, by decide, rfl⟩,
    ⟨State.scripted State.reset [.write (.id 0x01)], rfl, rfl⟩,
    ⟨State.scripted State.reset [.read .done], rfl, rfl⟩,
    ⟨State.scripted (State.reset.setPhase .write) [.now (.write (.id 0x01))], by decide, rfl⟩,
    ⟨State.scripted (State.reset.setPhase .write) [.now (.read .busy)], by decide, rfl⟩,
    ⟨State.scripted (State.reset.setCmd 4) [.now .offer], rfl, rfl⟩,
    ⟨State.scripted State.reset [.wait], rfl, rfl⟩,
    ⟨State.scripted (State.reset.setPhase .write) [.wait], rfl, by decide⟩,
    ⟨State.reset.setPhase .write, by decide, rfl⟩,
    ⟨State.reset, rfl, rfl⟩⟩

/-- A legal busy state with another script, which legality does not look at. -/
theorem busy_with (es : List Event) : ∃ s : State, s.Inv ∧ s.flags.busy = true ∧ s.ops.cmd = 3 ∧ s.world.script = es := by
  obtain ⟨t, hi, h⟩ := legal_of_ends (o := stepped .read 1 (reader1 0 []))
    (f := fun t => decide (t.flags.busy = true ∧ t.ops.cmd = 3)) (by decide +kernel)
  exact ⟨State.scripted t es, { hi with }, (of_decide_eq_true h).1, (of_decide_eq_true h).2, rfl⟩

/-- Each clause, the busy ones in a legal state in mid-transaction. -/
theorem witness_CommandsAreAcceptedOnlyWhenIdle :
    (∃ s : State, s.Inv ∧ Instr.WellFormed .encode ∧ s.flags.busy = true) ∧
    (State.reset.flags.busy = false ∧ State.reset.seq.txn = .idle) ∧
    (∃ s : State, s.Inv ∧ s.flags.busy = true ∧ s.undisturbed = true) ∧
    (∃ s : State, s.Inv ∧ s.flags.busy = true ∧ s.world.script = .wait :: []) ∧
    (∃ s : State, s.flags.busy = true ∧ s.world.script = .now .offer :: [] ∧
      decode s.cfg.version s.cfg.crcSpan (.command s.ops.cmd) = .ok .readData) ∧
    (∃ s : State, s.seq.phase = .rest ∧ s.world.script = .offer :: [] ∧ s.ops.cmd = 5) := by
  refine ⟨?_, ⟨rfl, rfl⟩, ?_, ?_, ?_, ⟨State.scripted (State.reset.setCmd 5) [.offer], rfl, rfl, rfl⟩⟩
  · obtain ⟨t, hi, h, -⟩ := busy_with []
    exact ⟨t, hi, rfl, h⟩
  · obtain ⟨t, hi, h, -, hs⟩ := busy_with []
    exact ⟨t, hi, h, by unfold State.undisturbed; rw [hs]⟩
  · obtain ⟨t, hi, h, -, hs⟩ := busy_with [.wait]
    exact ⟨t, hi, h, hs⟩
  · obtain ⟨t, -, h, hc, hs⟩ := busy_with [.now .offer]
    exact ⟨t, h, hs, by rw [hc]; rfl⟩

/-- `10_state.md` R24, R30: the host reads `BUSY` as 1 in the middle of a transaction. -/
theorem test_busy_reads_one : ends (stepped .read 2 (State.scripted (reader1 0 reply1) [.wait, .now (.read .busy)]))
    (fun t => decide (t.world.seen = [(.busy, 1)] ∧ t.seq.txn = .sent)) = true := by decide +kernel

/-- R31, R101: a write and an offer in the middle of a transaction are refused. -/
theorem test_busy_refuses :
    refuses (stepped .read 2 (State.scripted (reader1 0 reply1) [.wait, .now (.write (.id 0x02))])) .hostWriteWhileBusy = true ∧
    refuses (stepped .read 2 (State.scripted (reader1 0 reply1) [.wait, .now .offer])) .busy = true := by decide +kernel

theorem witness_HostWritesAreRefusedWhileBusy : ∃ s : State, s.Inv ∧ s.flags.busy = true :=
  legal_of_ends (o := stepped .write 1 (reader1 0 [])) (f := fun t => t.flags.busy) (by decide +kernel)

/-- The buffer writes at indexes where the clauses about inside and outside meet. -/
theorem witness_HostWritesReachOnlyTheirOwnRegister : State.reset.Inv ∧ State.reset.flags.busy = false ∧
    ((4 : Nat) < 5 ∨ 5 + ([0x01, 0x02] : List Byte).length ≤ 4) ∧ ((7 : Nat) < 5 ∨ 5 + ([0x01, 0x02] : List Byte).length ≤ 7) :=
  ⟨inv_of_legal (by decide), rfl, by decide, by decide⟩

theorem witness_ConfigurationNeverChanges : ∃ s t : State, step s = .next t ∧ t.res.kind = .ok ∧ t.transport.log ≠ [] := by
  obtain ⟨t, h, ht⟩ := exists_of_ends (o := step (State.scripted ((reader1 0 reply1).setCmd 3) [.offer]))
    (f := fun t => decide (t.res.kind = .ok ∧ t.transport.log ≠ [])) (by decide +kernel)
  exact ⟨_, t, h, of_decide_eq_true ht⟩

theorem witness_ArrivingBytesOnlyWaitInTheTransport : ∃ s : State, s.seq.phase = .rest ∧ s.world.script = .arrive reply1 :: [] :=
  ⟨State.scripted State.reset [.arrive reply1], rfl, rfl⟩

theorem witness_DeliveryWritesTheResultAndFreesTheBlock : (List.replicate 65531 (0x00 : Byte)).length ≤ 65531 := by
  rw [List.length_replicate]

/-- The kinds and the clauses of a delivered result: an `OK` read, a decoded v2 packet, an unexpected ID, a motor error; `TXBUF`
after ENCODE, up to its last byte, after a DECODE that follows, and not after a READ_DATA that does. -/
theorem witness_HostReadsGiveOnlyMeaningfulResults :
    (∃ t, exec .readData (reader1 0 reply1) = .next t ∧ readable t .value = true ∧ readable t .id = false) ∧
    (∃ t, exec .decode ((fresh (cfg2 0) []).storeRx reply2) = .next t ∧ readable t .instr = true ∧
      readable t (.params 0) = true ∧ readable t (.params 1) = false) ∧
    (∃ t, exec (.readV1 0x02 0x24 .w2) (reader1 0 reply1) = .next t ∧ readable t .id = true ∧ readable t .instr = false) ∧
    (∃ t, exec (.writeV1W1 0x01 0x24 0x00) (reader1 0 [0xFF, 0xFF, 0x01, 0x02, 0x20, 0xDC]) = .next t ∧ readable t .err = true ∧
      readable t .cause = false) ∧
    (∃ t, exec .encode (reader1 0 reply1) = .next t ∧
      (readable t .txlen = true ∧ readable t (.txbuf 5) = true ∧ readable t (.txbuf 6) = false) ∧
      ends (exec .decode t) (fun u => readable u .txlen) = true ∧
      ends (exec .readData t) (fun u => !readable u .txlen) = true) := by
  refine ⟨?_, ?_, ?_, ?_, ?_⟩
  · obtain ⟨t, h, ht⟩ := exists_of_ends (o := exec .readData (reader1 0 reply1))
      (f := fun t => decide (readable t .value = true ∧ readable t .id = false)) (by decide +kernel)
    exact ⟨t, h, of_decide_eq_true ht⟩
  · obtain ⟨t, h, ht⟩ := exists_of_ends (o := exec .decode ((fresh (cfg2 0) []).storeRx reply2))
      (f := fun t => decide (readable t .instr = true ∧ readable t (.params 0) = true ∧ readable t (.params 1) = false))
      (by decide +kernel)
    exact ⟨t, h, of_decide_eq_true ht⟩
  · obtain ⟨t, h, ht⟩ := exists_of_ends (o := exec (.readV1 0x02 0x24 .w2) (reader1 0 reply1))
      (f := fun t => decide (readable t .id = true ∧ readable t .instr = false)) (by decide +kernel)
    exact ⟨t, h, of_decide_eq_true ht⟩
  · obtain ⟨t, h, ht⟩ := exists_of_ends (o := exec (.writeV1W1 0x01 0x24 0x00) (reader1 0 [0xFF, 0xFF, 0x01, 0x02, 0x20, 0xDC]))
      (f := fun t => decide (readable t .err = true ∧ readable t .cause = false)) (by decide +kernel)
    exact ⟨t, h, of_decide_eq_true ht⟩
  · obtain ⟨t, h, ht⟩ := exists_of_ends (o := exec .encode (reader1 0 reply1))
      (f := fun t => decide ((readable t .txlen = true ∧ readable t (.txbuf 5) = true ∧ readable t (.txbuf 6) = false) ∧
        ends (exec .decode t) (fun u => readable u .txlen) = true ∧
        ends (exec .readData t) (fun u => !readable u .txlen) = true)) (by decide +kernel)
    exact ⟨t, h, of_decide_eq_true ht⟩

theorem witness_AfterAnyResultTheNextCommandIsAccepted :
    (∃ t, exec .readData (reader1 0 reply1) = .next t ∧ t.res.kind = .ok) ∧
    (∃ u : State, Instr.WellFormed .writeData ∧ u.flags.busy = true) := by
  refine ⟨?_, ⟨State.reset.accept, rfl, rfl⟩⟩
  obtain ⟨t, h, ht⟩ := exists_of_ends (o := exec .readData (reader1 0 reply1)) (f := fun t => t.res.kind == .ok) (by decide +kernel)
  exact ⟨t, h, by simpa using ht⟩

theorem witness_UnknownRegisterIsNeverGiven : ∃ t, exec .writeData (reader1 0 []) = .next t ∧ t.res.kind = .timeout := by
  obtain ⟨t, h, ht⟩ := exists_of_ends (o := exec .writeData (reader1 0 [])) (f := fun t => t.res.kind == .timeout) (by decide +kernel)
  exact ⟨t, h, by simpa using ht⟩

/-- The domain's boundary in v1: 253 parameters are in it, 254 are not. -/
theorem witness_EncodeLeavesTheFrameInTxbuf :
    ((State.givenParams (fresh (cfg1 0) []) 1 3 (List.replicate 253 0)).ready = true ∧
      Memory.wf (State.givenParams (fresh (cfg1 0) []) 1 3 (List.replicate 253 0)).bufs.tx = true ∧
      inDomain .v1 (State.givenParams (fresh (cfg1 0) []) 1 3 (List.replicate 253 0)).ops.params = true) ∧
    inDomain .v1 (State.givenParams (fresh (cfg1 0) []) 1 3 (List.replicate 254 0)).ops.params = false := by decide +kernel

theorem memRead_nil (i n : Nat) : memRead [] i n = List.replicate n 0 := by
  induction n generalizing i with
  | zero => rfl
  | succ n ih => rw [List.replicate_succ]; exact congrArg _ (ih (i + 1))

/-- In v1 254 parameters, in v2 a parameter buffer of 65533 zeros. -/
theorem witness_EncodeOutsideTheDomainIsRefused :
    (∃ s : State, s.ready = true ∧ s.cfg.version = .v1 ∧ 253 < s.ops.params.length) ∧
    (∃ s : State, s.ready = true ∧ s.cfg.version = .v2 ∧ 65532 < (stuff s.ops.params).length) := by
  refine ⟨⟨(fresh (cfg1 0) []).withOps { Operands.reset with plen := 254 }, rfl, rfl, ?_⟩,
    ⟨(fresh (cfg2 0) []).withOps { Operands.reset with plen := 65533 }, rfl, rfl, ?_⟩⟩
  · show 253 < (memRead [] 0 254).length
    rw [memRead_nil, List.length_replicate]; decide
  · show 65532 < (stuff (memRead [] 0 65533)).length
    rw [memRead_nil, stuff_zeros, List.length_replicate]; decide

theorem witness_DecodeReportsTheDecodersAnswer :
    (∃ s : State, s.ready = true ∧ (decFrame s.cfg.version s.cfg.crcSpan s.rxFrame).isOk = true) ∧
    (∃ s : State, s.ready = true ∧ decFrame s.cfg.version s.cfg.crcSpan s.rxFrame = .error .header) :=
  ⟨⟨(fresh (cfg2 0) []).storeRx reply2, rfl, by decide +kernel⟩, ⟨fresh (cfg1 0) [], rfl, rfl⟩⟩

/-- A frame with an error field; and a motor error that WRITE_DATA does give. -/
theorem witness_DecodeGivesTheErrorFieldAsData :
    (∃ s : State, s.ready = true ∧ statusFits s.cfg.version 0x20 [] = true ∧
      s.rxFrame = statusFrame s.cfg.version s.cfg.crcSpan 0x01 0x20 []) ∧
    (∃ t, exec .writeData (reader1 0 [0xFF, 0xFF, 0x01, 0x02, 0x20, 0xDC]) = .next t ∧ t.res.kind = .motorError) := by
  refine ⟨⟨(fresh (cfg1 0) []).storeRx [0xFF, 0xFF, 0x01, 0x02, 0x20, 0xDC], rfl, by decide +kernel, by decide +kernel⟩, ?_⟩
  obtain ⟨t, h, ht⟩ := exists_of_ends (o := exec .writeData (reader1 0 [0xFF, 0xFF, 0x01, 0x02, 0x20, 0xDC]))
    (f := fun t => t.res.kind == .motorError) (by decide +kernel)
  exact ⟨t, h, by simpa using ht⟩

theorem witness_IllegalReceivedBytesGiveFrameError : ∃ s : State, s.Inv ∧ s.seq.phase = .rest ∧
    s.world.script = .frame .rx [0xFF] :: [] ∧ decFrame s.cfg.version s.cfg.crcSpan [0xFF] = .error .header :=
  ⟨State.scripted State.reset [.frame .rx [0xFF]], inv_of_legal (by decide), rfl, rfl, rfl⟩

theorem witness_CodecCommandsLeaveTheRestAlone :
    (∃ (s t : State), s.Inv ∧ exec .encode s = .next t ∧ s.cfg.version = .v1) ∧
    (∃ (s t : State), s.Inv ∧ exec .decode s = .next t ∧ s.cfg.version = .v2) := by
  refine ⟨?_, ?_⟩
  · obtain ⟨t, h, _⟩ := exists_of_ends (o := exec .encode (fresh (cfg1 0) [])) (f := fun _ => true) (by decide +kernel)
    exact ⟨_, t, inv_of_legal (by decide), h, rfl⟩
  · obtain ⟨t, h, _⟩ := exists_of_ends (o := exec .decode ((fresh (cfg2 0) []).storeRx reply2)) (f := fun _ => true)
      (by decide +kernel)
    exact ⟨_, t, inv_of_legal (by decide +kernel), h, rfl⟩

/-- P6: a read with unequal widths, a write whose value does not fit. -/
theorem witness_WidthMismatchTouchesNothing :
    (∃ s : State, s.ready = true ∧ widthCheck .read s.ops = false) ∧
    (∃ s : State, s.ready = true ∧ widthCheck .write s.ops = false ∧ widthCheck .read s.ops = true) :=
  ⟨⟨State.given (fresh (cfg1 0) []) 1 0x24 2 1 0, rfl, rfl⟩, ⟨State.given (fresh (cfg1 0) []) 1 0x19 1 1 0x100, rfl, rfl, rfl⟩⟩

/-- The value's boundary: `0xFF` fits one byte, `0x100` does not. -/
theorem witness_WidthCheckPassesExactlyOnLegalWidths :
    widthCheck .write (State.given (fresh (cfg1 0) []) 1 0x19 1 1 0xFF).ops = true ∧
    (∃ s : State, s.ready = true ∧ widthCheck .write s.ops = false) :=
  ⟨rfl, ⟨State.given (fresh (cfg1 0) []) 1 0x19 1 1 0x100, rfl, rfl⟩⟩

theorem witness_WideAddressIsRefusedInV1 : ∃ s : State, s.ready = true ∧ widthCheck .read s.ops = true ∧
    widthCheck .write s.ops = true ∧ s.cfg.version = .v1 ∧ 256 ≤ s.ops.addr.toNat :=
  ⟨State.given (fresh (cfg1 0) []) 1 0x100 2 2 0, rfl, rfl, rfl, rfl, by decide⟩

/-- Address 255 is v1's last; address `0xFFFF` is v2's. -/
theorem witness_TransactionsWriteOnceAndThenOnlyRead :
    (∃ s : State, s.Inv ∧ Transacts .read s ∧ Transacts .write s ∧ s.cfg.version = .v1 ∧ s.ops.addr = 0xFF) ∧
    (∃ s : State, s.Inv ∧ Transacts .read s ∧ Transacts .write s ∧ s.cfg.version = .v2 ∧ s.ops.addr = 0xFFFF) :=
  ⟨⟨State.given (fresh (cfg1 0) reply1) 1 0xFF 2 2 0, inv_of_legal (by decide +kernel), ⟨rfl, rfl, rfl⟩, ⟨rfl, rfl, rfl⟩, rfl, rfl⟩,
    ⟨State.given (fresh (cfg2 0) reply2) 1 0xFFFF 4 4 0, inv_of_legal (by decide +kernel), ⟨rfl, rfl, rfl⟩, ⟨rfl, rfl, rfl⟩, rfl, rfl⟩⟩

/-- `s` with the transport's coming answers. -/
def planned (s : State) (tx : List TxPlan) (rx : List RxPlan) : State :=
  { s with transport := { s.transport with txPlan := tx, rxPlan := rx } }

/-- A failed write, a read that times out, a read that fails, and a transaction with neither. -/
theorem witness_TransportFailuresEndTheTransaction :
    (reader1 0 reply1).Inv ∧ Transacts .read (reader1 0 reply1) ∧
    ends (exec .readData (planned (reader1 0 reply1) [.ioError 3] [])) (fun t => t.res.kind == .ioError && t.transport.log.length == 1) = true ∧
    ends (exec .readData (reader1 0 [])) (fun t => t.res.kind == .timeout) = true ∧
    ends (exec .readData (planned (reader1 0 reply1) [] [⟨[], .ok⟩, ⟨[], .ioError 1⟩])) (fun t => t.res.kind == .ioError && readSizes t == [2, 2]) = true ∧
    ends (exec .readData (reader1 0 reply1)) (fun t => t.res.kind == .ok) = true :=
  ⟨inv_of_legal (by decide +kernel), ⟨rfl, rfl, rfl⟩, by decide +kernel, by decide +kernel, by decide +kernel, by decide +kernel⟩

theorem witness_BroadcastWriteIssuesNoRead :
    (∃ s : State, s.Inv ∧ s.ready = true ∧ addressFits s.cfg.version s.ops = true ∧ s.ops.id = s.cfg.broadcastId ∧
      widthCheck .write s.ops = true) ∧
    (∃ s : State, s.Inv ∧ s.ready = true ∧ addressFits s.cfg.version s.ops = true ∧ s.ops.id = s.cfg.broadcastId ∧
      widthCheck .write s.ops = false) :=
  ⟨⟨State.given (fresh (cfg2 0) [0xAA, 0xBB]) 0xFE 0x74 4 4 0xFDFFFF00, inv_of_legal (by decide +kernel), rfl, rfl, rfl, rfl⟩,
    ⟨State.given (fresh (cfg1 0) [0xAA, 0xBB]) 0xFE 0x1E 2 4 0x200, inv_of_legal (by decide +kernel), rfl, rfl, rfl, rfl⟩⟩

/-- Whatever frame stands first in the unread bytes, the state meets the other hypotheses. -/
theorem reader1_meets (b : List Byte) : (reader1 0 b).Inv ∧ Transacts .read (reader1 0 b) ∧ Transacts .write (reader1 0 b) ∧
    (reader1 0 b).transport.Unplanned ∧ (reader1 0 b).ops.id ≠ (reader1 0 b).cfg.broadcastId ∧
    (reader1 0 b).transport.unread = b ++ [] :=
  ⟨inv_of_legal rfl, ⟨rfl, rfl, rfl⟩, ⟨rfl, rfl, rfl⟩, ⟨rfl, rfl⟩, (show (0x01 : Byte) ≠ 0xFE by decide),
    (List.append_nil b).symm⟩

/-- A frame and its packet for each clause: another ID (with an error field), an error field, one parameter where two are
asked for, the exact parameters. -/
theorem witness_ResponsesAreClassifiedInOrder :
    (∃ b st, (reader1 0 b).Inv ∧ decFrame .v1 .afterHeader b = .ok st ∧ st.id ≠ (reader1 0 b).ops.id) ∧
    (∃ b st, (reader1 0 b).Inv ∧ decFrame .v1 .afterHeader b = .ok st ∧ st.id = (reader1 0 b).ops.id ∧ st.error ≠ 0) ∧
    (∃ b st, (reader1 0 b).Inv ∧ decFrame .v1 .afterHeader b = .ok st ∧ st.id = (reader1 0 b).ops.id ∧ st.error = 0 ∧
      st.params.length ≠ (reader1 0 b).ops.regw.toNat) ∧
    (∃ b st, (reader1 0 b).Inv ∧ decFrame .v1 .afterHeader b = .ok st ∧ st.id = (reader1 0 b).ops.id ∧ st.error = 0 ∧
      st.params.length = (reader1 0 b).ops.regw.toNat) :=
  ⟨⟨[0xFF, 0xFF, 0x02, 0x04, 0x20, 0xB4, 0x02, 0x23], ⟨0x02, none, 0x20, [0xB4, 0x02]⟩, (reader1_meets _).1, by decide +kernel,
      by decide⟩,
    ⟨[0xFF, 0xFF, 0x01, 0x02, 0x20, 0xDC], ⟨0x01, none, 0x20, []⟩, (reader1_meets _).1, by decide +kernel, rfl, by decide⟩,
    ⟨[0xFF, 0xFF, 0x01, 0x03, 0x00, 0x20, 0xDB], ⟨0x01, none, 0x00, [0x20]⟩, (reader1_meets _).1, by decide +kernel, rfl, rfl,
      by decide⟩,
    ⟨reply1, ⟨0x01, none, 0x00, [0xB4, 0x02]⟩, (reader1_meets _).1, by decide +kernel, rfl, rfl, rfl⟩⟩

/-- A v1 frame with a wrong check byte (E4), and LENs below the minimum (E5, E6: 1 and 0), for READ_DATA and WRITE_DATA. -/
theorem witness_MalformedResponsesGiveFrameError :
    (∃ s : State, s.Inv ∧ Transacts .read s ∧ Transacts .write s ∧ s.transport.Unplanned ∧ s.ops.id ≠ s.cfg.broadcastId ∧
      s.cfg.version = .v1 ∧ ([0x01, 0x04] : List Byte).length = prefixLen .v1 ∧
      minStatusLen .v1 ≤ lenField .v1 [0x01, 0x04] ∧ ([0x00, 0xB4, 0x02, 0x6C] : List Byte).length = lenField .v1 [0x01, 0x04] ∧
      s.transport.unread = mark .v1 ++ [0x01, 0x04] ++ [0x00, 0xB4, 0x02, 0x6C] ++ [] ∧
      decFrame .v1 .afterHeader (mark .v1 ++ [0x01, 0x04] ++ [0x00, 0xB4, 0x02, 0x6C]) = .error .check) ∧
    (∃ s : State, s.Inv ∧ Transacts .read s ∧ Transacts .write s ∧ s.transport.Unplanned ∧ s.ops.id ≠ s.cfg.broadcastId ∧
      s.cfg.version = .v1 ∧ ([0x01, 0x01] : List Byte).length = prefixLen .v1 ∧ lenField .v1 [0x01, 0x01] < minStatusLen .v1 ∧
      lenField .v1 [0x01, 0x00] < minStatusLen .v1 ∧ s.transport.unread = mark .v1 ++ [0x01, 0x01] ++ [0x00]) ∧
    (minStatusLen .v1 ≤ lenField .v1 [0x01, 0x02] ∧ minStatusLen .v2 ≤ lenField .v2 [0x01, 0x04, 0x00] ∧
      lenField .v2 [0x01, 0x03, 0x00] < minStatusLen .v2) := by
  refine ⟨?_, ?_, by decide⟩
  · obtain ⟨h1, h2, h3, h4, h5, -⟩ := reader1_meets [0xFF, 0xFF, 0x01, 0x04, 0x00, 0xB4, 0x02, 0x6C]
    exact ⟨_, h1, h2, h3, h4, h5, rfl, rfl, by decide, rfl, rfl, by decide +kernel⟩
  · obtain ⟨h1, h2, h3, h4, h5, -⟩ := reader1_meets [0xFF, 0xFF, 0x01, 0x01, 0x00]
    exact ⟨_, h1, h2, h3, h4, h5, rfl, rfl, by decide, by decide, rfl⟩

/-- E4: the whole announced frame is consumed and kept. -/
theorem test_readData_check : ends (exec .readData (reader1 0 [0xFF, 0xFF, 0x01, 0x04, 0x00, 0xB4, 0x02, 0x6C]))
    (fun t => decide (readSizes t = [2, 2, 4] ∧ t.res.kind = .frameError ∧ t.res.cause = .check ∧ t.transport.unread = [])) = true := by
  decide +kernel

theorem witness_TimeoutLeavesTheEngineUsable : ∃ s : State, s.Inv ∧ Transacts .read s ∧ s.transport.txPlan = [] ∧
    s.transport.rxPlan = { arrived := [0x00], verdict := .timeout 1 } :: [] :=
  ⟨planned (reader1 0 []) [] [⟨[0x00], .timeout 1⟩], inv_of_legal (by decide +kernel), ⟨rfl, rfl, rfl⟩, rfl, rfl⟩

/-- Two stray bytes before a header, under a window of two (just enough) and of one (one too few). -/
theorem witness_HuntDiscardsExactlyTheStrayBytes :
    (∃ s : State, s.Inv ∧ Transacts .read s ∧ Transacts .write s ∧ s.transport.Unplanned ∧ s.ops.id ≠ s.cfg.broadcastId ∧
      s.transport.unread = [0x12, 0x34] ++ mark s.cfg.version ++ reply2.drop 4 ∧
      (∀ j < 2, (s.transport.unread.drop j).take (headerLen s.cfg.version) ≠ mark s.cfg.version) ∧
      ([0x12, 0x34] : List Byte).length ≤ s.cfg.resyncWindow) ∧
    (∃ s : State, s.Inv ∧ Transacts .read s ∧ Transacts .write s ∧ s.transport.Unplanned ∧ s.ops.id ≠ s.cfg.broadcastId ∧
      s.transport.unread = [0x12, 0x34] ++ mark s.cfg.version ++ reply2.drop 4 ∧
      (∀ j < 2, (s.transport.unread.drop j).take (headerLen s.cfg.version) ≠ mark s.cfg.version) ∧
      s.cfg.resyncWindow < ([0x12, 0x34] : List Byte).length) :=
  ⟨⟨reader2 2 ([0x12, 0x34] ++ reply2), inv_of_legal (by decide +kernel), ⟨rfl, rfl, rfl⟩, ⟨rfl, rfl, rfl⟩, ⟨rfl, rfl⟩,
      (show (0x01 : Byte) ≠ 0xFE by decide), by decide +kernel,
      by decide +kernel, by decide⟩,
    ⟨reader2 1 ([0x12, 0x34] ++ reply2), inv_of_legal (by decide +kernel), ⟨rfl, rfl, rfl⟩, ⟨rfl, rfl, rfl⟩, ⟨rfl, rfl⟩,
      (show (0x01 : Byte) ≠ 0xFE by decide), by decide +kernel,
      by decide +kernel, by decide⟩⟩

theorem witness_ReceiveConsumesABoundedNumberOfBytes : (reader1 2 reply1).transport.Unplanned ∧
    ∃ t, exec Transaction.read.instr (reader1 2 reply1) = .next t := by
  obtain ⟨t, h, _⟩ := exists_of_ends (o := exec Transaction.read.instr (reader1 2 reply1)) (f := fun _ => true) (by decide +kernel)
  exact ⟨⟨rfl, rfl⟩, t, h⟩

theorem witness_WriteThenReadReturnsTheValue :
    (∃ s : State, s.Inv ∧ Transacts .read s ∧ s.transport.Unplanned ∧ s.ops.value.toNat < 2 ^ (8 * s.ops.regw.toNat) ∧
      s.transport.unread = statusFrame s.cfg.version s.cfg.crcSpan s.ops.id 0 (leBytes s.ops.value s.ops.regw.toNat) ++ []) ∧
    (∃ s : State, s.Inv ∧ Transacts .read s ∧ s.transport.Unplanned ∧ s.ops.value.toNat < 2 ^ (8 * s.ops.regw.toNat) ∧
      s.transport.unread = statusFrame s.cfg.version s.cfg.crcSpan s.ops.id 0 (leBytes s.ops.value s.ops.regw.toNat) ++ []) :=
  ⟨⟨reader1 0 reply1, inv_of_legal (by decide +kernel), ⟨rfl, rfl, rfl⟩, ⟨rfl, rfl⟩, by decide, by decide +kernel⟩,
    ⟨reader2 0 reply2, inv_of_legal (by decide +kernel), ⟨rfl, rfl, rfl⟩, ⟨rfl, rfl⟩, by decide, by decide +kernel⟩⟩

/-- In v1 with no frame assembled, in v2 with one; a broadcast write; a LEN below the minimum, with as many reads as come before
the body's. -/
theorem witness_TransactionsLeaveTheRestAlone :
    (∃ t, (reader1 0 []).Inv ∧ exec Transaction.write.instr (reader1 0 []) = .next t ∧ t.res.kind = .timeout) ∧
    (∃ t, (reader2 0 reply2).Inv ∧ exec Transaction.read.instr (reader2 0 reply2) = .next t ∧ t.res.kind = .ok) ∧
    (∃ s t : State, s.Inv ∧ exec Transaction.write.instr s = .next t ∧ s.ops.id = s.cfg.broadcastId ∧ t.res.kind = .ok) ∧
    (∃ (s t : State) (a : TxAnswer) (reads : List Exchange), s.Inv ∧ exec Transaction.read.instr s = .next t ∧
      t.transport.log = s.transport.log ++ .txWrite (requestFrame .read s) a :: reads ∧ reads.length ≤ t.seq.resyncCnt + 2 ∧
      t.res.kind = .frameError ∧ t.res.cause = .length) := by
  refine ⟨?_, ?_, ?_, ?_⟩
  · obtain ⟨t, h, ht⟩ := exists_of_ends (o := exec Transaction.write.instr (reader1 0 [])) (f := fun t => t.res.kind == .timeout)
      (by decide +kernel)
    exact ⟨t, inv_of_legal (by decide +kernel), h, by simpa using ht⟩
  · obtain ⟨t, h, ht⟩ := exists_of_ends (o := exec Transaction.read.instr (reader2 0 reply2)) (f := fun t => t.res.kind == .ok)
      (by decide +kernel)
    exact ⟨t, inv_of_legal (by decide +kernel), h, by simpa using ht⟩
  · obtain ⟨t, h, ht⟩ := exists_of_ends (o := exec Transaction.write.instr (State.given (fresh (cfg1 0) []) 0xFE 0x1E 2 2 0x200))
      (f := fun t => t.res.kind == .ok) (by decide +kernel)
    exact ⟨_, t, inv_of_legal (by decide +kernel), h, rfl, by simpa using ht⟩
  · obtain ⟨t, h, ht⟩ := exists_of_ends (o := exec Transaction.read.instr (reader1 1 [0x00, 0xFF, 0xFF, 0x01, 0x01, 0x00]))
      (f := fun t => decide (t.transport.log = [.txWrite (requestFrame .read (reader1 1 [])) .ok, .rxRead 2 ⟨0⟩ (.bytes [0x00, 0xFF]),
        .rxRead 1 ⟨0⟩ (.bytes [0xFF]), .rxRead 2 ⟨0⟩ (.bytes [0x01, 0x01])] ∧ t.seq.resyncCnt = 1 ∧ t.res.kind = .frameError ∧
        t.res.cause = .length)) (by decide +kernel)
    obtain ⟨h1, h2, h3, h4⟩ := of_decide_eq_true ht
    exact ⟨_, t, .ok, _, inv_of_legal (by decide +kernel), h, h1, by rw [h2]; decide, h3, h4⟩

/-- Before the write, in the hunt, before a delivery, and before a first read that will time out (two edges in one step), left
alone; and with the host reading `BUSY` at once. -/
theorem witness_SequencerMovesOnlyAlongTheEdges :
    (∃ s : State, s.Inv ∧ s.seq.phase ≠ .rest ∧ s.seq.txn = .idle ∧ s.world.script = []) ∧
    (∃ s : State, s.Inv ∧ s.seq.phase ≠ .rest ∧ s.seq.txn = .awaitingResponse ∧ s.world.script = []) ∧
    (∃ s : State, s.Inv ∧ s.seq.phase ≠ .rest ∧ s.seq.txn = .decoded ∧ s.world.script = []) ∧
    (∃ s : State, s.Inv ∧ s.seq.phase ≠ .rest ∧ s.seq.txn = .sent ∧ s.world.script = []) ∧
    (∃ s t : State, s.Inv ∧ s.seq.phase ≠ .rest ∧ s.world.script = .now (.read .busy) :: [] ∧ step s = .next t) := by
  refine ⟨?_, ?_, ?_, ?_, ?_⟩
  · obtain ⟨t, hi, h⟩ := legal_of_ends (o := stepped .read 0 (reader1 0 reply1))
      (f := fun t => decide (t.seq.phase ≠ .rest ∧ t.seq.txn = .idle ∧ t.world.script = [])) (by decide +kernel)
    exact ⟨t, hi, of_decide_eq_true h⟩
  · obtain ⟨t, hi, h⟩ := legal_of_ends (o := stepped .read 2 (reader1 0 reply1))
      (f := fun t => decide (t.seq.phase ≠ .rest ∧ t.seq.txn = .awaitingResponse ∧ t.world.script = [])) (by decide +kernel)
    exact ⟨t, hi, of_decide_eq_true h⟩
  · obtain ⟨t, hi, h⟩ := legal_of_ends (o := stepped .read 4 (reader1 0 reply1))
      (f := fun t => decide (t.seq.phase ≠ .rest ∧ t.seq.txn = .decoded ∧ t.world.script = [])) (by decide +kernel)
    exact ⟨t, hi, of_decide_eq_true h⟩
  · obtain ⟨t, hi, h⟩ := legal_of_ends (o := stepped .read 1 (reader1 0 []))
      (f := fun t => decide (t.seq.phase ≠ .rest ∧ t.seq.txn = .sent ∧ t.world.script = [])) (by decide +kernel)
    exact ⟨t, hi, of_decide_eq_true h⟩
  · obtain ⟨t, hi, h⟩ := legal_of_ends (o := stepped .read 1 (State.scripted (reader1 0 reply1) [.wait, .now (.read .busy)]))
      (f := fun t => decide (t.seq.phase ≠ .rest ∧ t.world.script = [.now (.read .busy)] ∧ ends (step t) (fun _ => true) = true))
      (by decide +kernel)
    obtain ⟨h1, h2, h3⟩ := of_decide_eq_true h
    obtain ⟨u, hu, -⟩ := exists_of_ends h3
    exact ⟨t, u, hi, h1, h2, hu⟩

theorem witness_SingleStepsAmountToTheWholeCommand :
    (reader2 2 reply2).Inv ∧ (reader2 2 reply2).undisturbed = true ∧
      ∃ a, beginTransaction .read (reader2 2 reply2) = .next a ∧ a.seq.phase = .write := by
  obtain ⟨t, h, ht⟩ := exists_of_ends (o := beginTransaction .read (reader2 2 reply2)) (f := fun t => decide (t.seq.phase = .write))
    (by decide +kernel)
  exact ⟨inv_of_legal (by decide +kernel), rfl, t, h, of_decide_eq_true ht⟩

/-- Two idle states that differ in every dead register: one has just delivered a reply. -/
theorem witness_OtherRegistersAreDeadBetweenCommands : ∃ s s' : State, s.Inv ∧ s'.Inv ∧ s.ready = true ∧ s'.ready = true ∧
    s'.cfg = s.cfg ∧ s'.ops = s.ops ∧ s'.transport = s.transport ∧ s'.free = s.free ∧ s'.rxFrame = s.rxFrame ∧
    s'.bufs.tx ≠ s.bufs.tx ∧ s'.accs ≠ s.accs ∧ s'.seq.reqId ≠ s.seq.reqId :=
  ⟨reader1 0 reply1,
    { reader1 0 reply1 with
      bufs := { (reader1 0 reply1).bufs with tx := [(0, 0x01)], txlen := 1 }
      accs := { chk8 := 0x01, crc16 := 0x02, ffcnt := 1 }
      seq := { (reader1 0 reply1).seq with reqId := 0x07 } },
    inv_of_legal (by decide +kernel), inv_of_legal (by decide +kernel), rfl, rfl, rfl, rfl, rfl, rfl, rfl, by decide, by decide,
    by decide⟩

/-- An idle instance of each version, and the longest and the shortest parameter lists. -/
theorem witness_FrameRowsAreTheirCalls :
    ((fresh (cfg1 0) []).ready = true ∧ (fresh (cfg1 0) []).cfg.version = .v1 ∧ (List.replicate 253 (0x00 : Byte)).length ≤ 253) ∧
    ((fresh (cfg2 0) []).ready = true ∧ (fresh (cfg2 0) []).cfg.version = .v2 ∧ (stuff []).length ≤ 65532 ∧
      (stuff [0x00, 0xFF, 0xFF, 0xFD]).length ≤ 65532) := by decide +kernel

/-- A row of each shape that answers a next state, in both versions. -/
theorem witness_FrameRowsLeaveTheRestAlone :
    (fresh (cfg1 0) []).Inv ∧ (fresh (cfg2 0) []).Inv ∧
    ends (exec (.v1Instruction 0x01 0x01 []) (fresh (cfg1 0) [])) (fun _ => true) = true ∧
    ends (exec (.v1Status 0x01 0x00 []) (fresh (cfg2 0) [])) (fun t => t.res.kind == .frameError) = true ∧
    ends (exec (.readV2 0x01 64 .w1) (fresh (cfg2 0) [])) (fun _ => true) = true ∧
    ends (exec (.writeV1W4 0x01 0x10 0xFFFFFFFF) (fresh (cfg1 0) [])) (fun _ => true) = true :=
  ⟨inv_of_legal (by decide), inv_of_legal (by decide), by decide +kernel, by decide +kernel, by decide +kernel, by decide +kernel⟩

theorem witness_InstructionRowsBuildTheirOwnFrame :
    ((fresh (cfg1 0) []).Inv ∧ (fresh (cfg1 0) []).ready = true ∧ (fresh (cfg1 0) []).cfg.version = .v1 ∧
      (List.replicate 253 (0x00 : Byte)).length ≤ 253) ∧
    ((fresh (cfg2 0) []).Inv ∧ (fresh (cfg2 0) []).ready = true ∧ (fresh (cfg2 0) []).cfg.version = .v2 ∧
      (stuff [0xFF, 0xFF, 0xFD]).length ≤ 65532) :=
  ⟨⟨inv_of_legal (by decide), rfl, rfl, by decide +kernel⟩, ⟨inv_of_legal (by decide), rfl, rfl, by decide⟩⟩

theorem witness_StatusRowsDecodeToTheirOwnFields :
    ((fresh (cfg1 0) []).Inv ∧ (fresh (cfg1 0) []).ready = true ∧ (fresh (cfg1 0) []).cfg.version = .v1 ∧
      ([] : List Byte).length ≤ 253) ∧
    ((fresh (cfg2 0) []).Inv ∧ (fresh (cfg2 0) []).ready = true ∧ (fresh (cfg2 0) []).cfg.version = .v2 ∧
      (stuff (0xFF :: [0xFF, 0xFD])).length ≤ 65532) :=
  ⟨⟨inv_of_legal (by decide), rfl, rfl, by decide⟩, ⟨inv_of_legal (by decide), rfl, rfl, by decide⟩⟩

theorem witness_ReadAndWriteRowsSendTheirOwnFrame :
    ((fresh (cfg1 0) []).Inv ∧ (fresh (cfg1 0) []).ready = true ∧ (Instr.writeV1W2 0xFE 0x1E 0x0200).sends = true ∧
      (Instr.writeV1W2 0xFE 0x1E 0x0200).version = some (fresh (cfg1 0) []).cfg.version) ∧
    ((fresh (cfg2 0) []).Inv ∧ (fresh (cfg2 0) []).ready = true ∧ (Instr.readV2 0x01 0xFFFF .w4).sends = true ∧
      (Instr.readV2 0x01 0xFFFF .w4).version = some (fresh (cfg2 0) []).cfg.version) :=
  ⟨⟨inv_of_legal (by decide), rfl, rfl, rfl⟩, ⟨inv_of_legal (by decide), rfl, rfl, rfl⟩⟩

theorem witness_FramesOfTheOtherVersionAreNotTaken :
    ((fresh (cfg1 0) []).Inv ∧ (fresh (cfg1 0) []).ready = true ∧ (Instr.readV2 0x01 0x0084 .w4).sends = true ∧
      (Instr.readV2 0x01 0x0084 .w4).version = some .v2 ∧ Version.v2 ≠ (fresh (cfg1 0) []).cfg.version) ∧
    ((fresh (cfg2 0) []).Inv ∧ (fresh (cfg2 0) []).ready = true ∧ (fresh (cfg2 0) []).cfg.version = .v2 ∧
      ([] : List Byte).length ≤ 253) ∧
    ((fresh (cfg1 0) []).cfg.version = .v1 ∧ (stuff (0x00 :: [])).length ≤ 65532) :=
  ⟨⟨inv_of_legal (by decide), rfl, rfl, rfl, by decide⟩, ⟨inv_of_legal (by decide), rfl, rfl, by decide⟩, rfl, by decide⟩

end Sys2Proof.Tests
end

section
/-!
PROOF. O21: what one step runs, clause by clause, from the laws of `step`.
-/
namespace Sys2Proof.Machine

/-- A READ_DATA or WRITE_DATA in `CMD` begins in single steps. -/
theorem runStepwise_of_transaction {k : Transaction} {s : State} (h : s.ops.cmd = k.code) :
    runStepwise s = beginTransaction k s := by
  cases k with
  | read => exact if_pos h
  | write =>
    have h3 : s.ops.cmd ≠ 3 := by rw [h]; decide
    exact (if_neg h3).trans (if_pos h)

/-- Any other code in `CMD` runs as the instruction it decodes to. -/
theorem runStepwise_of_decode {s : State} {i : Instr} (h3 : s.ops.cmd ≠ 3) (h4 : s.ops.cmd ≠ 4)
    (h : decode s.cfg.version s.cfg.crcSpan (.command s.ops.cmd) = .ok i) : runStepwise s = exec i s :=
  ((if_neg h3).trans (if_neg h4)).trans (runWords_of_decode h)

/-- An act the host is next to do happens, at rest as an event of its own or at once (log 2). -/
theorem step_act {s : State} {a : HostAct} {e : Event} {rest : List Event} (he : ∀ u, runEvent e u = runAct a u)
    (h : (s.seq.phase = .rest ∧ s.world.script = e :: rest) ∨ s.world.script = .now a :: rest) :
    step s = runAct a { s with world := { s.world with script := rest } } := by
  rcases h with ⟨hp, hs⟩ | hs
  · rw [step_event hp hs, he]
  · exact step_now hs

/-- Settles O21: each clause is the law of `step` for its event. -/
theorem stepRunsTheDecodedInstruction : Obligations.StepRunsTheDecodedInstruction := by
  refine ⟨?offer, ?frame, ?stepwise, ?write, ?read, ?now, ?wait, ?inProgress, ?nothing⟩
  case offer =>
    intro s rest i hp hs hd
    rw [step_event hp hs]
    exact runWords_of_decode hd
  case frame =>
    intro s side b rest i hp hs hd
    rw [step_event hp hs]
    exact runWords_of_decode hd
  case stepwise =>
    intro s rest hp hs
    rw [step_event hp hs]
    exact ⟨fun k hk => runStepwise_of_transaction hk, fun i h3 h4 hd => runStepwise_of_decode h3 h4 hd⟩
  case write => exact fun s w rest h => step_act (fun _ => rfl) h
  case read => exact fun s r rest h => step_act (fun _ => rfl) h
  case now =>
    intro s rest i hs hd
    rw [step_now hs]
    exact runWords_of_decode hd
  case wait => exact fun s rest hs => ⟨fun hp => step_event hp hs, fun hp => step_wait hp hs⟩
  case inProgress => exact fun s => step_inProgress
  case nothing => exact fun s => step_nothing

end Sys2Proof.Machine
end

section
/-!
PROOF. O59: a frame of the other version is refused on the transmit side, and is a decoder's error on the receive side.
-/
namespace Sys2Proof.Machine

/-- A READ or WRITE row of the other version is refused. -/
theorem exec_sends_foreign {i : Instr} {v : Version} {s : State} (hr : s.ready = true) (hi : i.sends = true)
    (hv : i.version = some v) (hne : v ≠ s.cfg.version) : exec i s = .refused .foreignVersion := by
  cases i <;> cases hi
  all_goals
    cases hv
    exact onlyIn_foreign hr hne.symm _

/-- `DEC_V2` of a v1 frame: the byte after the ID is its LEN, which is never the v2 header's 0. -/
theorem decV2_encV1 (span : CrcSpan) (id op : Byte) {ps : List Byte} (h : ps.length ≤ 253) :
    decV2 span (encV1 id op ps) = .error .header := by
  have hlen : byteAt (encV1 id op ps) 3 ≠ 0x00 := by
    have e : byteAt (encV1 id op ps) 3 = BitVec.ofNat 8 (ps.length + 2) := by rw [encV1_cons]; rfl
    rw [e]
    bv_omega
  have hp : parseV2 span (minStatusLen .v2) (encV1 id op ps) = .error .header :=
    if_pos (.inr (.inr (.inr (.inr hlen))))
  unfold decV2
  rw [hp]

/-- `DEC_V1` of a v2 frame: the header passes, and the reserved byte stands where LEN is, announcing 0. -/
theorem decV1_frameV2 (span : CrcSpan) (id i : Byte) (r : List Byte) :
    decV1 (frameV2 span id i r) = .error .length := by
  have hl := frameV2_length span id i r
  have h0 : byteAt (frameV2 span id i r) 0 = 0xFF := by rw [frameV2_cons]; rfl
  have h1 : byteAt (frameV2 span id i r) 1 = 0xFF := by rw [frameV2_cons]; rfl
  have h3 : byteAt (frameV2 span id i r) 3 = 0x00 := by rw [frameV2_cons]; rfl
  have hd : ¬ ((frameV2 span id i r).length < 2 ∨ byteAt (frameV2 span id i r) 0 ≠ 0xFF ∨
      byteAt (frameV2 span id i r) 1 ≠ 0xFF) := by
    simp [h0, h1]; omega
  unfold decV1
  rw [if_neg hd, if_neg (by omega), h3]
  exact if_pos (by decide)

/-- DECODE of stored bytes that the decoder rejects completes with its cause. -/
theorem decodeCall_of_error {s : State} {b : List Byte} {c : Cause} (hw : Memory.wf s.bufs.rx = true)
    (hr : s.ready = true) (hd : decFrame s.cfg.version s.cfg.crcSpan b = .error c) :
    ∃ t, decodeCall b s = .next t ∧ t.res.kind = .frameError ∧ t.res.cause = c := by
  have hx := exec_decode_of_ready (s := s.storeRx b) hr
  rw [storeRx_cfg, rxFrame_storeRx hw, hd] at hx
  exact ⟨_, (if_pos hr).trans hx, rfl, rfl⟩

/-- Settles O59: the rows by `onlyIn`, the status rows by the other version's decoder on their frame. -/
theorem framesOfTheOtherVersionAreNotTaken : Obligations.FramesOfTheOtherVersionAreNotTaken := by
  intro s hinv hr
  refine ⟨fun i v => exec_sends_foreign hr, ?v1Instruction, ?v2Instruction, ?v1Status, ?v2Status⟩
  case v1Instruction => exact fun id op ps hv => onlyIn_foreign hr (by simp [hv]) _
  case v2Instruction => exact fun id op ps hv => onlyIn_foreign hr (by simp [hv]) _
  case v1Status =>
    intro id e ps hv hps
    have hx : exec (.v1Status id e ps) s = decodeCall (encsV1 id e ps) s := if_pos ((inDomainV1_iff ps).2 hps)
    rw [hx]
    refine decodeCall_of_error hinv.rxWf hr ?_
    rw [hv]
    exact decV2_encV1 s.cfg.crcSpan id e hps
  case v2Status =>
    intro id i e ps hv hps
    have hx : exec (.v2Status id i e ps) s = decodeCall (encV2 s.cfg.crcSpan id i (e :: ps)) s :=
      if_pos ((inDomainV2_iff (e :: ps)).2 hps)
    rw [hx]
    refine decodeCall_of_error hinv.rxWf hr ?_
    rw [hv]
    exact decV1_frameV2 s.cfg.crcSpan id i (stuff (e :: ps))

end Sys2Proof.Machine
end

section
/-!
PROOF. The step of a transaction in progress (`00_scope.md` R8), said once per phase, and O50: the edges of `TXN_STATE`.
-/
namespace Sys2Proof.Machine

/-! ### One read, one write -/

/-- All a read of the engine can lead to. -/
theorem readThen_cases (s : State) (n : Nat) (k : List Byte → State → State) :
    (∃ b, (s.rxRead n).1 = .bytes b ∧ s.readThen n k = k b (s.rxRead n).2) ∨
    ((s.rxRead n).1 = .timeout ∧ s.readThen n k = (s.rxRead n).2.terminate (.timeout, .timedOut)) ∨
    ((s.rxRead n).1 = .ioError ∧ s.readThen n k = (s.rxRead n).2.terminate (.ioError, .ioFailed)) := by
  unfold State.readThen
  rcases s.rxRead n with ⟨a, s1⟩
  cases a with
  | bytes b => exact .inl ⟨b, rfl, rfl⟩
  | timeout => exact .inr (.inl ⟨rfl, rfl⟩)
  | ioError => exact .inr (.inr ⟨rfl, rfl⟩)

/-- The step of `TxWrite` when it is answered `Ok`. -/
theorem engineStep_write_ok {s : State} (hp : s.seq.phase = .write) (h : (s.transport.write s.txFrame).1 = .ok) :
    engineStep s = ((s.txWrite s.txFrame).2.setTxn .sent).setPhase .sent := by
  unfold engineStep
  rw [hp]
  rcases hw : s.txWrite s.txFrame with ⟨a, s1⟩
  rw [← txWrite_fst, hw] at h
  cases h
  rfl

/-- The step of `TxWrite` when it fails. -/
theorem engineStep_write_ioError {s : State} (hp : s.seq.phase = .write)
    (h : (s.transport.write s.txFrame).1 = .ioError) :
    engineStep s = (s.txWrite s.txFrame).2.terminate (.ioError, .ioFailed) := by
  unfold engineStep
  rw [hp]
  rcases hw : s.txWrite s.txFrame with ⟨a, s1⟩
  rw [← txWrite_fst, hw] at h
  cases h
  rfl

/-! ### The edges of `TXN_STATE` -/

/-- What R108 allows of one step: an edge of the table, or from `Sent` the two edges of the first read (log 27); a result is
delivered exactly on return to `Idle`. -/
def MovesAlong (s t : State) : Prop :=
  (txnEdge s.seq.txn t.seq.txn = true ∨ (s.seq.txn = .sent ∧ txnEdge .awaitingResponse t.seq.txn = true)) ∧
  (t.seq.txn = .idle → t.flags = Flags.completed) ∧
  (t.seq.txn ≠ .idle → t.flags = s.flags ∧ t.res = s.res)

/-- The answer to a read of RECEIVE leaves `AwaitingResponse` along an edge, or stays; nothing is delivered. -/
structure AnswersRead (s t : State) : Prop where
  edge  : txnEdge .awaitingResponse t.seq.txn = true
  flags : t.flags = s.flags
  res   : t.res = s.res

/-- A delivery returns to `Idle`. -/
theorem deliver_movesAlong {s : State} (h : txnEdge s.seq.txn .idle = true) (r : Result) : MovesAlong s (deliver r s) :=
  ⟨.inl h, fun _ => rfl, fun hne => absurd rfl hne⟩

/-- A read in `AwaitingResponse`, or the first one, which starts in `Sent`. -/
theorem AnswersRead.movesAlong {s t : State} (h : AnswersRead s t)
    (hs : s.seq.txn = .awaitingResponse ∨ s.seq.txn = .sent) : MovesAlong s t := by
  refine ⟨?_, fun hi => ?_, fun _ => ⟨h.flags, h.res⟩⟩
  · rcases hs with hs | hs
    · exact .inl (hs ▸ h.edge)
    · exact .inr ⟨hs, h.edge⟩
  · have he := h.edge
    rw [hi] at he
    cases he

theorem terminate_answersRead {r : Result × TxnState} (h : txnEdge .awaitingResponse r.2 = true) (s : State) :
    AnswersRead s (s.terminate r) := ⟨h, rfl, rfl⟩

/-- The state before matters by its flags and results only. -/
theorem AnswersRead.ofSame {s s' t : State} (h : AnswersRead s t) (hf : s.flags = s'.flags) (hr : s.res = s'.res) :
    AnswersRead s' t := ⟨h.edge, h.flags.trans hf, h.res.trans hr⟩

theorem setPhase_answersRead {s : State} (h : s.seq.txn = .awaitingResponse) (p : Phase) : AnswersRead s (s.setPhase p) :=
  ⟨by rw [setPhase_seq, h]; rfl, rfl, rfl⟩

theorem afterHuntRead_answersRead {s : State} (h : s.seq.txn = .awaitingResponse) : AnswersRead s s.afterHuntRead := by
  unfold State.afterHuntRead
  split
  · exact setPhase_answersRead h .afterHeader
  · split
    · exact terminate_answersRead rfl s
    · exact setPhase_answersRead h .huntNext

/-- A read whose continuation answers it. -/
theorem readThen_answersRead {s : State} {n : Nat} {k : List Byte → State → State}
    (h : ∀ b, AnswersRead (s.rxRead n).2 (k b (s.rxRead n).2)) : AnswersRead s (s.readThen n k) := by
  rcases readThen_cases s n k with ⟨b, -, e⟩ | ⟨-, e⟩ | ⟨-, e⟩
  · exact e ▸ (h b).ofSame rfl rfl
  · exact e ▸ (terminate_answersRead rfl _).ofSame rfl rfl
  · exact e ▸ (terminate_answersRead rfl _).ofSame rfl rfl

/-- Every response concludes in a terminal state (R107, R108). -/
theorem conclude_edge (k : Transaction) (q : Sequencer) (r : Received) :
    txnEdge .awaitingResponse (conclude k q r).2 = true := by
  cases r with
  | ok st =>
    rcases classify_cases k q st with ⟨-, h⟩ | ⟨-, -, h⟩ | ⟨-, -, -, -, h⟩ | ⟨-, -, -, -, h⟩ | ⟨-, -, -, h⟩ <;>
      simp only [conclude, h, txnEdge]
  | err c => rfl
  | timeout => rfl
  | ioError => rfl

/-- The frame taken at the end of RECEIVE is judged. -/
theorem takeFrame_terminate_answersRead (k : Transaction) (s : State) (p b : List Byte) :
    AnswersRead s ((takeFrame s p b).2.terminate (conclude k s.seq (takeFrame s p b).1)) where
  edge := conclude_edge k _ _
  flags := (takeFrame_receives s p b).flags
  res := (takeFrame_receives s p b).res

/-- A result to be delivered stands in a terminal state, from which the only edge goes to `Idle`. -/
theorem phaseTxn_deliver_edge {r : Result} {t : TxnState} (h : phaseTxn (.deliver r) t) : txnEdge t .idle = true := by
  cases r <;> cases h <;> rfl

/-- One step of a transaction in progress moves along the edges. -/
theorem engineStep_movesAlong {s : State} (hrest : s.seq.phase ≠ .rest) (ht : phaseTxn s.seq.phase s.seq.txn) :
    MovesAlong s (engineStep s) := by
  cases hp : s.seq.phase with
  | rest => exact absurd hp hrest
  | write =>
    have hidle : s.seq.txn = .idle := by rw [hp] at ht; exact ht
    cases ha : (s.transport.write s.txFrame).1 with
    | ok =>
      rw [engineStep_write_ok hp ha]
      exact ⟨.inl (by rw [hidle]; rfl), nofun, fun _ => ⟨rfl, rfl⟩⟩
    | ioError =>
      rw [engineStep_write_ioError hp ha]
      exact ⟨.inl (by rw [hidle]; rfl), nofun, fun _ => ⟨rfl, rfl⟩⟩
  | sent =>
    have hsent : s.seq.txn = .sent := by rw [hp] at ht; exact ht
    unfold engineStep
    rw [hp]
    simp only
    split
    · exact deliver_movesAlong (by rw [hsent]; rfl) .okWrite
    · refine AnswersRead.movesAlong ?_ (.inr hsent)
      refine (readThen_answersRead fun w => ?_).ofSame (s := s.startReceive) rfl rfl
      exact (afterHuntRead_answersRead rfl).ofSame rfl rfl
  | huntNext =>
    have hawait : s.seq.txn = .awaitingResponse := by rw [hp] at ht; exact ht
    unfold engineStep
    rw [hp]
    refine (readThen_answersRead fun d => ?_).movesAlong (.inl hawait)
    refine (afterHuntRead_answersRead ?_).ofSame rfl rfl
    exact hawait
  | afterHeader =>
    have hawait : s.seq.txn = .awaitingResponse := by rw [hp] at ht; exact ht
    unfold engineStep
    rw [hp]
    refine (readThen_answersRead fun p => ?_).movesAlong (.inl hawait)
    split
    · exact terminate_answersRead rfl _
    · refine setPhase_answersRead ?_ (.body p)
      exact hawait
  | body p =>
    have hawait : s.seq.txn = .awaitingResponse := by rw [hp] at ht; exact ht
    unfold engineStep
    rw [hp]
    refine (readThen_answersRead fun b => ?_).movesAlong (.inl hawait)
    exact takeFrame_terminate_answersRead _ _ p b
  | deliver r =>
    rw [hp] at ht
    have e : engineStep s = deliver r s := by unfold engineStep; rw [hp]
    rw [e]
    exact deliver_movesAlong (phaseTxn_deliver_edge ht) r

/-- While a transaction is in progress and the host does not act at once, the block takes its step, a `wait` being used up. -/
theorem step_inProgress_of_no_act {s : State} (h : s.seq.phase ≠ .rest)
    (hn : ∀ a rest, s.world.script ≠ .now a :: rest) : ∃ w : World, step s = .next (engineStep { s with world := w }) := by
  cases hu : s.undisturbed with
  | true => exact ⟨s.world, step_inProgress h hu⟩
  | false =>
    unfold State.undisturbed at hu
    split at hu
    · cases hu
    · next e rest hs =>
      cases e <;> cases hu
      case now a => exact absurd hs (hn a rest)
      case wait => exact ⟨_, step_wait h hs⟩

/-- An act of the host while the block is busy is a read, or it is refused (R31, R101). -/
theorem runAct_of_busy {a : HostAct} {s t : State} (hb : s.flags.busy = true) (h : runAct a s = .next t) :
    ∃ w : World, t = { s with world := w } := by
  have notReady : s.ready ≠ true := fun hr => by
    rw [((ready_iff s).1 hr).1] at hb
    cases hb
  cases a with
  | write w => cases h.symm.trans (if_pos hb)
  | read r =>
    change hostRead r s = .next t at h
    unfold hostRead at h
    split at h
    · cases h
      exact ⟨_, rfl⟩
    · cases h
  | offer =>
    rcases runWords_cases h with ⟨i, hi⟩ | ⟨b, hd⟩
    · exact absurd (exec_next_cases hi).1 notReady
    · exact absurd (decode_ready hd) notReady

/-- Settles O50, by the step of each phase. -/
theorem sequencerMovesOnlyAlongTheEdges : Obligations.SequencerMovesOnlyAlongTheEdges := by
  intro s hinv hp
  refine ⟨fun hn => ?blockSteps, fun a rest t hs ht => ?hostActs⟩
  case blockSteps =>
    obtain ⟨w, hw⟩ := step_inProgress_of_no_act hp hn
    have hm : MovesAlong { s with world := w } (engineStep { s with world := w }) :=
      engineStep_movesAlong hp hinv.txnPhase
    exact ⟨_, hw, hm⟩
  case hostActs =>
    rw [step_now hs] at ht
    obtain ⟨w, rfl⟩ := runAct_of_busy (s := { s with world := { s.world with script := rest } }) (hinv.busyIff.2 hp) ht
    rfl

end Sys2Proof.Machine
end

section
/-!
PROOF. O51: the single steps of a transaction and the fused command. RECEIVE is written once more as a chain of reads
(`receiveThen`), tied to the model's definitions by `rfl`; each phase of the engine then runs the rest of that chain.
-/
namespace Sys2Proof.Machine

/-! ### RECEIVE as a chain of reads -/

/-- One `RxRead(n)` of RECEIVE: `k` takes the bytes, a failure ends RECEIVE with its answer (R106). -/
def receiveThen (s : State) (n : Nat) (k : List Byte → State → Received × State) : Received × State :=
  match (s.rxRead n).1 with
  | .bytes b => k b (s.rxRead n).2
  | .timeout => (.timeout, (s.rxRead n).2)
  | .ioError => (.ioError, (s.rxRead n).2)

/-- The rest of RECEIVE from a point of the hunt, where the window still allows `left` stray bytes. -/
def receiveHunt (left : Nat) (s : State) : Received × State :=
  match hunt left s with
  | (some r, s) => (r, s)
  | (none, s) => receivePrefix s

theorem receive_eq (s : State) :
    receive s = receiveThen s (headerLen s.cfg.version) fun w s => receiveHunt s.cfg.resyncWindow (s.openHunt w) := by
  unfold receive receiveThen
  rcases s.rxRead (headerLen s.cfg.version) with ⟨a, s1⟩
  cases a <;> rfl

theorem receivePrefix_eq (s : State) :
    receivePrefix s = receiveThen s (prefixLen s.cfg.version) fun p s =>
      if lenField s.cfg.version p < minStatusLen s.cfg.version then (.err .length, s) else receiveBody p s := by
  unfold receivePrefix receiveThen
  rcases s.rxRead (prefixLen s.cfg.version) with ⟨a, s1⟩
  cases a <;> rfl

theorem receiveBody_eq (p : List Byte) (s : State) :
    receiveBody p s = receiveThen s (lenField s.cfg.version p) fun b s => takeFrame s p b := by
  unfold receiveBody receiveThen
  rcases s.rxRead (lenField s.cfg.version p) with ⟨a, s1⟩
  cases a <;> rfl

theorem receiveHunt_found {s : State} (h : s.headerFound = true) (left : Nat) : receiveHunt left s = receivePrefix s := by
  have e : hunt left s = (none, s) := by cases left <;> exact if_pos h
  unfold receiveHunt
  rw [e]

theorem receiveHunt_usedUp {s : State} (h : ¬ s.headerFound = true) : receiveHunt 0 s = (.err .header, s) := by
  have e : hunt 0 s = (some (.err .header), s) := if_neg h
  unfold receiveHunt
  rw [e]

theorem receiveHunt_slide {s : State} (h : ¬ s.headerFound = true) (left : Nat) :
    receiveHunt (left + 1) s = receiveThen s 1 fun d s => receiveHunt left (s.slideHunt d) := by
  unfold receiveHunt receiveThen
  rw [hunt, if_neg h]
  rcases s.rxRead 1 with ⟨a, s1⟩
  cases a <;> rfl

theorem receiveThen_bytes {s : State} {n : Nat} {b : List Byte} (h : (s.rxRead n).1 = .bytes b)
    (k : List Byte → State → Received × State) : receiveThen s n k = k b (s.rxRead n).2 := by
  unfold receiveThen
  rw [h]

theorem receiveThen_timeout {s : State} {n : Nat} (h : (s.rxRead n).1 = .timeout)
    (k : List Byte → State → Received × State) : receiveThen s n k = (.timeout, (s.rxRead n).2) := by
  unfold receiveThen
  rw [h]

theorem receiveThen_ioError {s : State} {n : Nat} (h : (s.rxRead n).1 = .ioError)
    (k : List Byte → State → Received × State) : receiveThen s n k = (.ioError, (s.rxRead n).2) := by
  unfold receiveThen
  rw [h]

/-- The transaction's end for what RECEIVE returned, as in `awaitResponse`. -/
def concluded (k : Transaction) (r : Received × State) : State := finish (conclude k r.2.seq r.1) r.2

/-! ### The phase is the stepping block's own -/

/-- Storing and decoding a frame does not touch the phase. -/
theorem takeFrame_setPhase (s : State) (q : Phase) (p b : List Byte) :
    takeFrame (s.setPhase q) p b = ((takeFrame s p b).1, (takeFrame s p b).2.setPhase q) := by
  rw [takeFrame_eq, takeFrame_eq]
  rfl

/-- The response is compared with `REQ_ID` and `REQ_W` only. -/
theorem conclude_congr (k : Transaction) {q q' : Sequencer} (hid : q.reqId = q'.reqId) (hw : q.reqW = q'.reqW)
    (r : Received) : conclude k q r = conclude k q' r := by
  cases r with
  | ok st => simp only [conclude, classify, hid, hw]
  | err c => rfl
  | timeout => rfl
  | ioError => rfl

/-! ### Single steps -/

/-- Within `m` steps the block has come from `s` to `u`. -/
def Completes (m : Nat) (s u : State) : Prop := ∃ n : Nat, n ≤ m ∧ Host.Core.run Sys2Proof.core n s = .next u

theorem Completes.refl (m : Nat) (s : State) : Completes m s s := ⟨0, Nat.zero_le m, rfl⟩

theorem Completes.mono {m m' : Nat} {s u : State} (hm : m ≤ m') (h : Completes m s u) : Completes m' s u :=
  let ⟨n, hn, hr⟩ := h
  ⟨n, hn.trans hm, hr⟩

/-- One step of the block, which the host leaves alone. -/
theorem Completes.step {m : Nat} {s u : State} (hu : s.undisturbed = true) (hp : s.seq.phase ≠ .rest)
    (h : Completes m (engineStep s) u) : Completes (m + 1) s u :=
  let ⟨n, hn, hr⟩ := h
  ⟨n + 1, Nat.succ_le_succ hn, (run_succ (step_inProgress hp hu)).trans hr⟩

/-- The delivery is one step. -/
theorem completes_terminate {s : State} (hu : s.undisturbed = true) (m : Nat) (r : Result × TxnState) :
    Completes (m + 1) (s.terminate r) (finish r s) :=
  Completes.step hu nofun (.refl m (finish r s))

/-- A read of the engine against the same read of RECEIVE: if it fails, the delivery follows. -/
theorem completes_readThen {s : State} (hu : s.undisturbed = true) {k : Transaction} {q : Phase} {m n : Nat}
    {e : List Byte → State → State} {f : List Byte → State → Received × State}
    (h : ∀ b, Completes (m + 1) (e b ((s.rxRead n).2.setPhase q)) (concluded k (f b (s.rxRead n).2))) :
    Completes (m + 1) ((s.setPhase q).readThen n e) (concluded k (receiveThen s n f)) := by
  rcases readThen_cases (s.setPhase q) n e with ⟨b, hb, he⟩ | ⟨hb, he⟩ | ⟨hb, he⟩
  · rw [he, receiveThen_bytes (s := s) hb]
    exact h b
  · rw [he, receiveThen_timeout (s := s) hb]
    exact completes_terminate (s := (s.rxRead n).2) hu m (.timeout, .timedOut)
  · rw [he, receiveThen_ioError (s := s) hb]
    exact completes_terminate (s := (s.rxRead n).2) hu m (.ioError, .ioFailed)

/-- After the read of LEN bytes: the frame is judged and its result delivered. -/
theorem completes_takeFrame {s : State} {k : Transaction} (hu : s.undisturbed = true) (hk : s.transaction = k) (q : Phase)
    (p b : List Byte) :
    Completes 1 ((takeFrame (s.setPhase q) p b).2.terminate
      (conclude (s.setPhase q).transaction (s.setPhase q).seq (takeFrame (s.setPhase q) p b).1))
      (concluded k (takeFrame s p b)) := by
  have hr := takeFrame_receives s p b
  have hu' : (takeFrame s p b).2.undisturbed = true := by
    unfold State.undisturbed
    rw [hr.world]
    exact hu
  have hk' : (s.setPhase q).transaction = k := hk
  rw [takeFrame_setPhase, hk', concluded, conclude_congr k hr.reqId hr.reqW]
  exact completes_terminate hu' 0 _

/-- From the read of LEN bytes: that read and the delivery. -/
theorem completes_body {s : State} {k : Transaction} (hu : s.undisturbed = true) (hk : s.transaction = k) (p : List Byte) :
    Completes 2 (s.setPhase (.body p)) (concluded k (receiveBody p s)) := by
  refine Completes.step hu nofun ?_
  rw [receiveBody_eq]
  refine completes_readThen (m := 0) hu fun b => ?_
  exact completes_takeFrame (s := (s.rxRead _).2) hu hk (.body p) p b

/-- After the read of the fixed bytes: a LEN below the minimum is delivered, else the frame's rest follows. -/
theorem completes_afterPrefix {s : State} {k : Transaction} (hu : s.undisturbed = true) (hk : s.transaction = k) (p : List Byte) :
    Completes 2
      (if lenField s.cfg.version p < minStatusLen s.cfg.version then s.terminate (.frameError .length, .malformed)
        else s.setPhase (.body p))
      (concluded k
        (if lenField s.cfg.version p < minStatusLen s.cfg.version then (.err .length, s) else receiveBody p s)) := by
  split
  · exact completes_terminate hu 1 _
  · exact completes_body hu hk p

/-- From the read of the fixed bytes: two reads and the delivery. -/
theorem completes_afterHeader {s : State} {k : Transaction} (hu : s.undisturbed = true) (hk : s.transaction = k) :
    Completes 3 (s.setPhase .afterHeader) (concluded k (receivePrefix s)) := by
  refine Completes.step hu nofun ?_
  rw [receivePrefix_eq]
  refine completes_readThen (m := 1) hu fun p => ?_
  exact completes_afterPrefix (s := (s.rxRead _).2) hu hk p

/-- From a point of the hunt: a read for each stray byte still allowed, then as after the header. -/
theorem completes_hunt {k : Transaction} (left : Nat) {s : State} (hu : s.undisturbed = true) (hk : s.transaction = k)
    (hleft : s.seq.resyncCnt + left = s.cfg.resyncWindow) :
    Completes (left + 3) s.afterHuntRead (concluded k (receiveHunt left s)) := by
  induction left generalizing s with
  | zero =>
    by_cases hf : s.headerFound = true
    · rw [receiveHunt_found hf, State.afterHuntRead, if_pos hf]
      exact completes_afterHeader hu hk
    · rw [receiveHunt_usedUp hf, State.afterHuntRead, if_neg hf, if_pos (by omega)]
      exact completes_terminate hu 2 _
  | succ left ih =>
    by_cases hf : s.headerFound = true
    · rw [receiveHunt_found hf, State.afterHuntRead, if_pos hf]
      exact (completes_afterHeader hu hk).mono (by omega)
    · rw [receiveHunt_slide hf, State.afterHuntRead, if_neg hf, if_neg (by omega)]
      refine Completes.step (m := left + 3) hu nofun ?_
      refine completes_readThen (m := left + 2) hu fun d => ?_
      have hleft' : s.seq.resyncCnt + 1 + left = s.cfg.resyncWindow := by omega
      exact ih (s := (s.rxRead 1).2.slideHunt d) hu hk hleft'

/-- From `Sent`, a broadcast write: the delivery alone (R112). -/
theorem completes_broadcast {s : State} {k : Transaction} (hu : s.undisturbed = true) (hk : s.transaction = k)
    (hb : s.isBroadcast k = true) (m : Nat) : Completes (m + 1) (s.setPhase .sent) (deliver .okWrite s) := by
  have hk' : (s.setPhase .sent).transaction = k := hk
  have hb' : (s.setPhase .sent).isBroadcast k = true := by rw [← hb]; cases k <;> rfl
  have hstep : engineStep (s.setPhase .sent) = deliver .okWrite s := if_pos (by rw [hk', hb'])
  refine Completes.step hu nofun ?_
  rw [hstep]
  exact .refl m _

/-- From `Sent`, where a response is awaited: RECEIVE and the delivery. -/
theorem completes_awaitResponse {s : State} {k : Transaction} (hu : s.undisturbed = true) (hk : s.transaction = k)
    (hb : s.isBroadcast k = false) :
    Completes (s.cfg.resyncWindow + 4) (s.setPhase .sent) (awaitResponse k s) := by
  have hk' : (s.setPhase .sent).transaction = k := hk
  have hb' : (s.setPhase .sent).isBroadcast k = false := by rw [← hb]; cases k <;> rfl
  have hstep : engineStep (s.setPhase .sent) =
      (s.startReceive.setPhase .sent).readThen (headerLen s.cfg.version) fun w s => (s.openHunt w).afterHuntRead :=
    if_neg (by rw [hk', hb']; decide)
  refine Completes.step hu nofun ?_
  rw [hstep, show awaitResponse k s = concluded k (receive s.startReceive) from rfl, receive_eq]
  refine completes_readThen (s := s.startReceive) (m := s.cfg.resyncWindow + 2) hu fun w => ?_
  exact completes_hunt s.cfg.resyncWindow (s := (s.startReceive.rxRead _).2.openHunt w) hu hk (Nat.zero_add _)

/-- From the built frame to the end of the transaction. -/
theorem completes_transact {s : State} {k : Transaction} (hu : s.undisturbed = true) (hk : s.transaction = k) :
    Completes (s.cfg.resyncWindow + 5) (s.setPhase .write) (transact k s) := by
  have hb' : ((s.txWrite s.txFrame).2.setTxn .sent).isBroadcast k = s.isBroadcast k := by cases k <;> rfl
  refine Completes.step hu nofun ?_
  rcases transact_cases k s with ⟨ha, e⟩ | ⟨ha, hb, e⟩ | ⟨ha, hb, e⟩
  · rw [e, engineStep_write_ioError (s := s.setPhase .write) rfl ha]
    exact completes_terminate (s := (s.txWrite s.txFrame).2) hu _ (.ioError, .ioFailed)
  · rw [e, engineStep_write_ok (s := s.setPhase .write) rfl ha]
    exact completes_broadcast (s := (s.txWrite s.txFrame).2.setTxn .sent) hu hk (hb'.trans hb) _
  · rw [e, engineStep_write_ok (s := s.setPhase .write) rfl ha]
    exact completes_awaitResponse (s := (s.txWrite s.txFrame).2.setTxn .sent) hu hk (hb'.trans hb)

theorem started_undisturbed (s : State) (k : Transaction) : (s.started k).undisturbed = s.undisturbed := by
  cases k <;> rfl

theorem started_transaction (s : State) (k : Transaction) : (s.started k).transaction = k := by
  cases k <;> rfl

theorem started_cfg (s : State) (k : Transaction) : (s.started k).cfg = s.cfg := by
  cases k <;> rfl

/-! ### The host's script -/

/-- The state with another script, and other reads of the host. -/
def State.withWorld (s : State) (w : World) : State := { s with world := w }

theorem ite_withWorld {c : Prop} [Decidable c] {s s' t t' : State} {w : World} (hs : s' = s.withWorld w)
    (ht : t' = t.withWorld w) : (if c then s' else t') = (if c then s else t).withWorld w := by
  split
  · exact hs
  · exact ht

theorem readThen_withWorld {k : List Byte → State → State} {w : World} (h : ∀ b s, k b (s.withWorld w) = (k b s).withWorld w)
    (s : State) (n : Nat) : (s.withWorld w).readThen n k = (s.readThen n k).withWorld w := by
  unfold State.readThen
  have hr : (s.withWorld w).rxRead n = ((s.rxRead n).1, (s.rxRead n).2.withWorld w) := rfl
  rw [hr]
  rcases s.rxRead n with ⟨a, s1⟩
  cases a with
  | bytes b => exact h b s1
  | timeout => rfl
  | ioError => rfl

theorem afterHuntRead_withWorld (s : State) (w : World) : (s.withWorld w).afterHuntRead = s.afterHuntRead.withWorld w := by
  have hf : (s.withWorld w).headerFound = s.headerFound := rfl
  unfold State.afterHuntRead
  rw [hf]
  exact ite_withWorld rfl (ite_withWorld rfl rfl)

theorem takeFrame_withWorld (s : State) (w : World) (p b : List Byte) :
    takeFrame (s.withWorld w) p b = ((takeFrame s p b).1, (takeFrame s p b).2.withWorld w) := by
  rw [takeFrame_eq, takeFrame_eq]
  rfl

/-- The block's own step neither reads nor changes the script. -/
theorem engineStep_withWorld (s : State) (w : World) : engineStep (s.withWorld w) = (engineStep s).withWorld w := by
  have hq : (s.withWorld w).seq.phase = s.seq.phase := rfl
  unfold engineStep
  rw [hq]
  cases s.seq.phase with
  | rest => rfl
  | write =>
    have hw : (s.withWorld w).txWrite (s.withWorld w).txFrame =
      ((s.txWrite s.txFrame).1, (s.txWrite s.txFrame).2.withWorld w) := rfl
    simp only [hw]
    rcases s.txWrite s.txFrame with ⟨a, s1⟩
    cases a <;> rfl
  | sent =>
    refine ite_withWorld (c := s.isBroadcast s.transaction = true) (s := deliver .okWrite s) rfl ?_
    exact readThen_withWorld (fun b s => afterHuntRead_withWorld (s.openHunt b) w) s.startReceive _
  | huntNext => exact readThen_withWorld (fun d s => afterHuntRead_withWorld (s.slideHunt d) w) s 1
  | afterHeader =>
    refine readThen_withWorld (fun p s => ?_) s _
    exact ite_withWorld rfl rfl
  | body p =>
    refine readThen_withWorld (fun b s => ?_) s _
    rw [takeFrame_withWorld]
    rfl
  | deliver r => rfl

/-- Settles O51: from acceptance to delivery by the chain of reads that RECEIVE is. -/
theorem singleStepsAmountToTheWholeCommand : Obligations.SingleStepsAmountToTheWholeCommand := by
  refine ⟨fun k s a _ hu ha => ?_, engineStep_withWorld⟩
  rcases beginTransaction_cases ha with ⟨hr, hw, rfl⟩ | ⟨ht, rfl⟩
  · exact ⟨0, Nat.zero_le _, (exec_of_widthMismatch hr hw).symm⟩
  · rw [exec_of_transacts ht, ← started_cfg s k]
    exact completes_transact ((started_undisturbed s k).trans hu) (started_transaction s k)

end Sys2Proof.Machine
end

section
/-!
PROOF. Facts for the statements of `10_state.md`, first: how long frames and decoded parameters are, and what a legal state asks
of its data (`DataLegal`).
-/
namespace Sys2Proof.Machine

/-! ### Lengths -/

theorem map_cons_eq_ok {d : Byte} {x : Except Cause (List Byte)} {p : List Byte} (h : x.map (d :: ·) = .ok p) :
    ∃ q, x = .ok q ∧ p = d :: q := by
  cases x with
  | error c => cases h
  | ok q => cases h; exact ⟨q, rfl, rfl⟩

/-- Unstuffing never lengthens. -/
theorem unstuffFrom_ok_length {ff : BitVec 2} {w p : List Byte} (h : unstuffFrom ff w = .ok p) : p.length ≤ w.length := by
  induction ff, w using unstuffFrom.induct generalizing p with
  | case1 ff => cases h; exact Nat.le_refl 0
  | case2 ff d ht => rw [unstuffFrom_cut ht] at h; cases h
  | case3 ff d ht w ih =>
    rw [unstuffFrom_escaped w ht] at h
    obtain ⟨q, hq, rfl⟩ := map_cons_eq_ok h
    simpa using Nat.le_succ_of_le (ih hq)
  | case4 ff d ht e w he => rw [unstuffFrom_unescaped w ht he] at h; cases h
  | case5 ff d w ht ih =>
    rw [unstuffFrom_plain w ht] at h
    obtain ⟨q, hq, rfl⟩ := map_cons_eq_ok h
    simpa using ih hq

/-- The unstuffed region of a v2 frame: LEN is 16 bits, and INSTR and the CRC are not in the region. -/
theorem parseV2_ok_region_length {span : CrcSpan} {mn : Nat} {b u : List Byte} (h : parseV2 span mn b = .ok u) :
    u.length ≤ 65532 := by
  unfold parseV2 at h
  split at h; · cases h
  split at h; · cases h
  split at h; · cases h
  split at h; · cases h
  split at h; · cases h
  have hu : u.length ≤ (slice b 8 (b.length - 2)).length := unstuffFrom_ok_length h
  have hs : (slice b 8 (b.length - 2)).length ≤ b.length - 10 := by simp [slice]; omega
  have hlen : (word16 (byteAt b 5) (byteAt b 6)).toNat < 65536 := BitVec.isLt _
  omega

/-- What a decoder returns: the parameters fit `RES_PARAMS`, and the packet has an INSTR byte in v2 alone. -/
theorem decFrame_ok {v : Version} {span : CrcSpan} {b : List Byte} {st : StatusPacket} (h : decFrame v span b = .ok st) :
    st.params.length ≤ 65531 ∧ (st.instr.isSome = true ↔ v = .v2) := by
  cases v with
  | v1 =>
    change decV1 b = .ok st at h
    unfold decV1 at h
    split at h; · cases h
    split at h; · cases h
    split at h; · cases h
    split at h; · cases h
    split at h; · cases h
    cases h
    have hlen := (byteAt b 3).isLt
    exact ⟨by simp [slice]; omega, nofun, nofun⟩
  | v2 =>
    change decV2 span b = .ok st at h
    unfold decV2 at h
    split at h
    · cases h
    · cases h
    · next e ps hp =>
      cases h
      have hr := parseV2_ok_region_length hp
      exact ⟨Nat.le_of_succ_le_succ hr, fun _ => rfl, fun _ => rfl⟩

/-- A frame of the encoder's domain fits `TXBUF` (`30_encoding.md` R63). -/
theorem encFrame_fits {v : Version} {ps : List Byte} (h : inDomain v ps = true) (span : CrcSpan) (id op : Byte) :
    (encFrame v span id op ps).length ≤ frameCapacity v := by
  cases v with
  | v1 => exact (Laws.WireLength.encV1_bounds id op ((inDomainV1_iff ps).1 h)).2
  | v2 => exact (Laws.WireLength.encV2_bounds span id op ((inDomainV2_iff ps).1 h)).2

theorem requestParams_length_le (k : Transaction) (s : State) : (requestParams k s).length ≤ 9 := by
  have hw : s.ops.regw.toNat < 8 := s.ops.regw.isLt
  cases k <;> simp only [requestParams, readParams, writeParams] <;> split <;> simp <;> omega

theorem requestParams_inDomain (k : Transaction) (s : State) (v : Version) : inDomain v (requestParams k s) = true := by
  have hl := requestParams_length_le k s
  have hs := stuff_length_le (requestParams k s)
  cases v with
  | v1 => exact (inDomainV1_iff _).2 (by omega)
  | v2 => exact (inDomainV2_iff _).2 (by omega)

/-! ### The data of a legal state -/

/-- What `State.Inv` asks of the buffers, results and accumulators, whatever the sequencer does. -/
structure DataLegal (s : State) : Prop where
  pbufWf  : Memory.wf s.ops.pbuf = true
  txWf    : Memory.wf s.bufs.tx = true
  rxWf    : Memory.wf s.bufs.rx = true
  resWf   : Memory.wf s.res.params = true
  ffcnt   : s.accs.ffcnt ≠ 3
  txFits  : s.bufs.txlen ≤ frameCapacity s.cfg.version
  resFits : ResReg.params ∈ s.res.specified → s.res.plen.toNat ≤ 65531

theorem State.Inv.dataLegal {s : State} (h : s.Inv) : DataLegal s :=
  ⟨h.pbufWf, h.txWf, h.rxWf, h.resWf, h.ffcnt, h.txFits, h.resFits⟩

/-- The sequencer, the flags, the transport and the host's script are no part of the data. -/
theorem DataLegal.ofSame {s t : State} (h : DataLegal s) (hc : t.cfg = s.cfg) (hp : t.ops.pbuf = s.ops.pbuf)
    (hb : t.bufs = s.bufs) (hr : t.res = s.res) (ha : t.accs = s.accs) : DataLegal t where
  pbufWf := hp ▸ h.pbufWf
  txWf := hb ▸ h.txWf
  rxWf := hb ▸ h.rxWf
  resWf := hr ▸ h.resWf
  ffcnt := ha ▸ h.ffcnt
  txFits := by rw [hb, hc]; exact h.txFits
  resFits := hr ▸ h.resFits

theorem DataLegal.withOps {s : State} (h : DataLegal s) {o : Operands} (hp : Memory.wf o.pbuf = true) :
    DataLegal (s.withOps o) := { h with pbufWf := hp }

theorem DataLegal.storeRx {s : State} (h : DataLegal s) (f : List Byte) : DataLegal (s.storeRx f) :=
  { h with rxWf := memWrite_wf h.rxWf 0 f }

theorem DataLegal.giveTx {s : State} (h : DataLegal s) : DataLegal s.giveTx := { h with }

theorem DataLegal.buildFrame {s : State} (h : DataLegal s) {ps : List Byte} (hd : inDomain s.cfg.version ps = true)
    (id op : Byte) : DataLegal (s.buildFrame id op ps) :=
  { h with
    txWf := memWrite_wf h.txWf 0 _
    ffcnt := encAccs_ffcnt h.ffcnt _ _ _ _
    txFits := encFrame_fits hd _ _ _ }

theorem DataLegal.prepare {s : State} (h : DataLegal s) (k : Transaction) : DataLegal (s.prepare k) := by
  have hl : DataLegal (s.latchRequest k) := by cases k <;> exact { h with }
  exact hl.buildFrame (requestParams_inDomain k s _) s.ops.id (requestOpcode k)

theorem DataLegal.receives {s t : State} {reads : List Exchange} (h : DataLegal s) (g : Receives s t reads) : DataLegal t where
  pbufWf := g.ops ▸ h.pbufWf
  txWf := g.tx ▸ h.txWf
  rxWf := g.rxWf h.rxWf
  resWf := g.res ▸ h.resWf
  ffcnt := g.ffcnt h.ffcnt
  txFits := by rw [g.txlen, g.cfg]; exact h.txFits
  resFits := g.res ▸ h.resFits

end Sys2Proof.Machine
end

section
/-!
PROOF. What a completed command delivers: one of its own results, from a state that it carried its data to (`exec_delivers`).
-/
namespace Sys2Proof.Machine

/-- The results a transaction that has sent its frame can end in. -/
def Transaction.EndsWith (k : Transaction) : Result → Prop
  | .okRead _ => k = .read
  | .okWrite => k = .write
  | .frameError _ => True
  | .timeout => True
  | .motorError _ => True
  | .unexpectedId _ => True
  | .ioError => True
  | .okEncode => False
  | .okDecode _ => False
  | .widthMismatch => False

/-- The results a command can complete with in a block of version `v`. -/
def Command.EndsWith (v : Version) : Command → Result → Prop
  | .encode, r => r = .okEncode
  | .decode, r =>
    (∃ st : StatusPacket, r = .okDecode st ∧ st.params.length ≤ 65531 ∧ (st.instr.isSome = true ↔ v = .v2)) ∨
      ∃ c, r = .frameError c
  | .transaction k, r => r = .widthMismatch ∨ k.EndsWith r

/-- Whether `TXBUF` holds ENCODE's frame after a command with result `r`, `before` saying whether it did (log 21). -/
def Command.txEncodedAfter : Command → Result → Bool → Bool
  | .encode, _, _ => true
  | .decode, _, before => before
  | .transaction _, .widthMismatch, before => before
  | .transaction _, _, _ => false

/-- From `s` to `t` a command has worked without delivering: `CFG` is the same, and legal data has stayed legal. -/
structure Carries (s t : State) : Prop where
  cfg  : t.cfg = s.cfg
  data : DataLegal s → DataLegal t

theorem Carries.trans {s t u : State} (h : Carries s t) (g : Carries t u) : Carries s u :=
  ⟨g.cfg.trans h.cfg, fun d => g.data (h.data d)⟩

theorem Receives.carries {s t : State} {reads : List Exchange} (h : Receives s t reads) : Carries s t :=
  ⟨h.cfg, fun d => d.receives h⟩

theorem setTxn_carries (s : State) (x : TxnState) : Carries s (s.setTxn x) := ⟨rfl, fun d => d.ofSame rfl rfl rfl rfl rfl⟩

theorem txWrite_carries (s : State) (f : List Byte) : Carries s (s.txWrite f).2 :=
  ⟨rfl, fun d => d.ofSame rfl rfl rfl rfl rfl⟩

theorem accepted_carries (s : State) (c : BitVec 3) : Carries s (s.setCmd c).accept :=
  ⟨rfl, fun d => d.ofSame rfl rfl rfl rfl rfl⟩

theorem started_carries (s : State) (k : Transaction) : Carries s (s.started k) :=
  (accepted_carries s k.code).trans ⟨prepare_cfg _ k, fun d => d.prepare k⟩

/-- `t` is a state in which command `c`, begun in `s`, has just delivered `r`. -/
structure Delivers (c : Command) (s : State) (r : Result) (t : State) : Prop where
  delivered : ∃ u, Carries s u ∧ t = deliver r u
  endsWith  : c.EndsWith s.cfg.version r
  txEncoded : t.bufs.txEncoded = c.txEncodedAfter r s.bufs.txEncoded

theorem conclude_endsWith (k : Transaction) (q : Sequencer) (r : Received) : k.EndsWith (conclude k q r).1 := by
  cases r with
  | ok st =>
    rcases classify_cases k q st with ⟨-, h⟩ | ⟨-, -, h⟩ | ⟨-, -, -, -, h⟩ | ⟨-, -, hk, -, h⟩ | ⟨-, -, hk, h⟩
    · simp only [conclude, h, Transaction.EndsWith]
    · simp only [conclude, h, Transaction.EndsWith]
    · simp only [conclude, h, Transaction.EndsWith]
    · simpa only [conclude, h, Transaction.EndsWith] using hk
    · simpa only [conclude, h, Transaction.EndsWith] using hk
  | err c => trivial
  | timeout => trivial
  | ioError => trivial

/-- A transaction delivers a result of its own; the flag of `TXBUF` is as its request left it. -/
theorem transact_delivers (k : Transaction) (s : State) :
    ∃ r u, transact k s = deliver r u ∧ Carries s u ∧ k.EndsWith r ∧ u.bufs.txEncoded = s.bufs.txEncoded := by
  have hset : ∀ x, Carries s ((s.txWrite s.txFrame).2.setTxn x) := fun x =>
    (txWrite_carries s s.txFrame).trans (setTxn_carries _ x)
  rcases transact_cases k s with ⟨-, e⟩ | ⟨-, hb, e⟩ | ⟨-, -, e⟩
  · exact ⟨_, _, e, hset .ioFailed, trivial, rfl⟩
  · have hk : k = .write := by
      cases k with
      | read => cases hb
      | write => rfl
    exact ⟨_, _, e, hset .sent, hk, rfl⟩
  · obtain ⟨reads, hr, -, -, ea⟩ := awaitResponse_eq k ((s.txWrite s.txFrame).2.setTxn .sent)
    have hstart : Carries s ((s.txWrite s.txFrame).2.setTxn .sent).startReceive :=
      ⟨rfl, fun d => d.ofSame rfl rfl rfl rfl rfl⟩
    have hheard := hstart.trans hr.carries
    exact ⟨_, _, e.trans ea, hheard.trans (setTxn_carries _ _), conclude_endsWith k _ _, hr.txEncoded⟩

theorem txEncodedAfter_of_endsWith {k : Transaction} {r : Result} (h : k.EndsWith r) (b : Bool) :
    (Command.transaction k).txEncodedAfter r b = false := by
  cases r with
  | okEncode | okDecode | widthMismatch => cases h
  | okRead | okWrite | frameError | timeout | motorError | unexpectedId | ioError => rfl

theorem started_txEncoded (s : State) (k : Transaction) : (s.started k).bufs.txEncoded = false := by
  cases k <;> rfl

/-- A command that answers a next state has delivered one of its results. -/
theorem command_delivers {c : Command} {s t : State} (h : exec c.instr s = .next t) : ∃ r, Delivers c s r t := by
  cases c with
  | encode =>
    obtain ⟨-, hd, rfl⟩ := encode_cases h
    have hb : Carries s ((s.setCmd 1).accept.buildFrame s.ops.id s.ops.opcode s.ops.params).giveTx :=
      (accepted_carries s 1).trans ⟨rfl, fun d => (d.buildFrame hd s.ops.id s.ops.opcode).giveTx⟩
    exact ⟨_, ⟨_, hb, rfl⟩, rfl, rfl⟩
  | decode =>
    have hx := h.symm.trans (exec_decode_of_ready (decode_ready h))
    have hb : Carries s (s.setCmd 2).accept.decodeRx.2 :=
      (accepted_carries s 2).trans ⟨rfl, fun d => { d with ffcnt := decAccs_ffcnt d.ffcnt _ _ }⟩
    cases hd : decFrame s.cfg.version s.cfg.crcSpan s.rxFrame with
    | ok st =>
      rw [hd] at hx
      cases hx
      exact ⟨_, ⟨_, hb, rfl⟩, .inl ⟨st, rfl, decFrame_ok hd⟩, rfl⟩
    | error c =>
      rw [hd] at hx
      cases hx
      exact ⟨_, ⟨_, hb, rfl⟩, .inr ⟨c, rfl⟩, rfl⟩
  | transaction k =>
    rcases transaction_cases h with ⟨-, -, rfl⟩ | ⟨-, rfl⟩
    · exact ⟨_, ⟨_, accepted_carries s k.code, rfl⟩, .inl rfl, rfl⟩
    · obtain ⟨r, u, e, hu, hr, htx⟩ := transact_delivers k (s.started k)
      refine ⟨r, ⟨u, (started_carries s k).trans hu, e⟩, .inr hr, ?_⟩
      rw [e, txEncodedAfter_of_endsWith hr, ← started_txEncoded s k]
      exact htx

theorem loaded_carries (i : Instr) (s : State) : Carries s (loaded i s) := by
  have hops : ∀ {o : Operands}, (Memory.wf s.ops.pbuf = true → Memory.wf o.pbuf = true) → Carries s (s.withOps o) :=
    fun ho => ⟨rfl, fun d => d.withOps (ho d.pbufWf)⟩
  have hrx : ∀ f, Carries s (s.storeRx f) := fun f => ⟨rfl, fun d => d.storeRx f⟩
  cases i with
  | encode | decode | readData | writeData => exact ⟨rfl, id⟩
  | v1Instruction id op ps | v2Instruction id op ps => exact hops fun h => memWrite_wf h 0 ps
  | v1Status | v2Status => exact hrx _
  | readV1 | readV2 | writeV1W1 | writeV1W2 | writeV1W4 | writeV2W1 | writeV2W2 | writeV2W4 => exact hops fun h => h

theorem loaded_txEncoded (i : Instr) (s : State) : (loaded i s).bufs.txEncoded = s.bufs.txEncoded := by
  cases i <;> rfl

/-- An instruction that answers a next state has delivered one of its command's results. -/
theorem exec_delivers {i : Instr} {s t : State} (h : exec i s = .next t) : ∃ r, Delivers (commandOf i) s r t := by
  obtain ⟨r, ⟨u, hu, ht⟩, hr, htx⟩ := command_delivers (exec_next_cases h).2
  have hl := loaded_carries i s
  rw [hl.cfg] at hr
  rw [loaded_txEncoded] at htx
  exact ⟨r, ⟨u, hl.trans hu, ht⟩, hr, htx⟩

end Sys2Proof.Machine
end

section
/-!
PROOF. All one step can be (`StepsTo`), and the block's own step, phase by phase.
-/
namespace Sys2Proof.Machine

/-! ### The engine, one equation per phase -/

theorem engineStep_sent_broadcast {s : State} (hp : s.seq.phase = .sent) (hb : s.isBroadcast s.transaction = true) :
    engineStep s = deliver .okWrite s := by
  unfold engineStep
  rw [hp]
  exact if_pos hb

theorem engineStep_sent_await {s : State} (hp : s.seq.phase = .sent) (hb : ¬ s.isBroadcast s.transaction = true) :
    engineStep s = s.startReceive.readThen (headerLen s.cfg.version) fun w u => (u.openHunt w).afterHuntRead := by
  unfold engineStep
  rw [hp]
  exact if_neg hb

theorem engineStep_huntNext {s : State} (hp : s.seq.phase = .huntNext) :
    engineStep s = s.readThen 1 fun d u => (u.slideHunt d).afterHuntRead := by
  unfold engineStep
  rw [hp]

theorem engineStep_afterHeader {s : State} (hp : s.seq.phase = .afterHeader) :
    engineStep s = s.readThen (prefixLen s.cfg.version) fun p u =>
      if lenField u.cfg.version p < minStatusLen u.cfg.version then u.terminate (.frameError .length, .malformed)
      else u.setPhase (.body p) := by
  unfold engineStep
  rw [hp]

theorem engineStep_body {s : State} {p : List Byte} (hp : s.seq.phase = .body p) :
    engineStep s = s.readThen (lenField s.cfg.version p) fun b u =>
      (takeFrame u p b).2.terminate (conclude u.transaction u.seq (takeFrame u p b).1) := by
  unfold engineStep
  rw [hp]

theorem engineStep_deliver {s : State} {r : Result} (hp : s.seq.phase = .deliver r) : engineStep s = deliver r s := by
  unfold engineStep
  rw [hp]

theorem engineStep_rest {s : State} (hp : s.seq.phase = .rest) : engineStep s = s := by
  unfold engineStep
  rw [hp]

/-! ### All one step can be -/

/-- What a step that goes on can have done: the host has read, or used up an event; the host has written; bytes have arrived; an
instruction has run, or DECODE on bytes taken from the line; a transaction has begun; the block has taken its own step. -/
inductive StepsTo (s : State) : State → Prop where
  | world (w : World) : StepsTo s { s with world := w }
  | write (w : PortWrite) (idle : s.flags.busy = false) : StepsTo s (applyWrite s w)
  | arrive (bs : List Byte) : StepsTo s (lineArrive bs s)
  | ran (i : Instr) {t : State} (h : exec i s = .next t) : StepsTo s t
  | received (b : List Byte) {t : State} (h : exec .decode (s.storeRx b) = .next t) : StepsTo s t
  | begun (k : Transaction) (h : Transacts k s) : StepsTo s ((s.started k).setPhase .write)
  | worked (h : s.seq.phase ≠ .rest) : StepsTo s (engineStep s)

theorem runWords_stepsTo {ws : Words} {s t : State} (h : runWords ws s = .next t) : StepsTo s t := by
  rcases runWords_cases h with ⟨i, hi⟩ | ⟨b, hb⟩
  · exact .ran i hi
  · exact .received b hb

theorem runAct_stepsTo {a : HostAct} {s t : State} (h : runAct a s = .next t) : StepsTo s t := by
  cases a with
  | write w =>
    change hostWrite w s = .next t at h
    unfold hostWrite at h
    split at h
    · cases h
    · next hb => cases h; exact .write w (by simpa using hb)
  | read r =>
    change hostRead r s = .next t at h
    unfold hostRead at h
    split at h
    · cases h; exact .world _
    · cases h
  | offer => exact runWords_stepsTo h

theorem beginTransaction_stepsTo {k : Transaction} {s t : State} (h : beginTransaction k s = .next t) : StepsTo s t := by
  rcases beginTransaction_cases h with ⟨hr, hw, rfl⟩ | ⟨ht, rfl⟩
  · exact .ran k.instr (exec_of_widthMismatch hr hw)
  · exact .begun k ht

theorem runEvent_stepsTo {e : Event} {s t : State} (h : runEvent e s = .next t) : StepsTo s t := by
  cases e with
  | write w => exact runAct_stepsTo (a := .write w) h
  | read r => exact runAct_stepsTo (a := .read r) h
  | offer => exact runAct_stepsTo (a := .offer) h
  | now a => exact runAct_stepsTo (a := a) h
  | arrive bs => cases h; exact .arrive bs
  | frame side b => exact runWords_stepsTo h
  | wait => cases h; exact .world s.world
  | offerStepwise =>
    change runStepwise s = .next t at h
    unfold runStepwise at h
    split at h
    · exact beginTransaction_stepsTo h
    · split at h
      · exact beginTransaction_stepsTo h
      · exact runWords_stepsTo h

/-- All a step that goes on can be, the script aside. -/
theorem step_stepsTo {s t : State} (h : step s = .next t) : ∃ w : World, StepsTo { s with world := w } t := by
  by_cases hp : s.seq.phase = .rest
  · cases hs : s.world.script with
    | nil => rw [step_nothing hp hs] at h; cases h; exact ⟨s.world, .world s.world⟩
    | cons e es => rw [step_event hp hs] at h; exact ⟨_, runEvent_stepsTo h⟩
  · rcases step_inProgress_cases hp h with ⟨a, es, -, ha⟩ | ⟨w, rfl⟩
    · exact ⟨_, runAct_stepsTo ha⟩
    · exact ⟨w, .worked hp⟩

end Sys2Proof.Machine
end

section
/-!
PROOF. O19 and O20: reset is a legal state, and every step keeps the legal states. A step ends at rest, after a delivery
(`deliver_inv`), or with a transaction in progress (`Engaged.inv`).
-/
namespace Sys2Proof.Machine

/-! ### At rest -/

theorem specified_params (n : Nat) (r : Result) :
    ResReg.params ∈ (resultRegs n r).specified ↔ ∃ st, r = .okDecode st := by
  cases r with
  | okDecode st => simp only [resultRegs, decodedResults]; split <;> simp
  | _ => simp [resultRegs, kindOnly]

theorem resultRegs_plen_le {r : Result} (h : ∀ st, r = .okDecode st → st.params.length ≤ 65531) (n : Nat)
    (hs : ResReg.params ∈ (resultRegs n r).specified) : (resultRegs n r).plen.toNat ≤ 65531 := by
  obtain ⟨st, rfl⟩ := (specified_params n r).1 hs
  exact (BitVec.toNat_ofNat st.params.length 17).le.trans ((Nat.mod_le _ _).trans (h st rfl))

/-- A delivery of a result that fits leaves a legal state. -/
theorem deliver_inv {s : State} {r : Result} (hd : DataLegal s) (hr : ∀ st, r = .okDecode st → st.params.length ≤ 65531) :
    (deliver r s).Inv where
  pbufWf := hd.pbufWf
  txWf := hd.txWf
  rxWf := hd.rxWf
  resWf := resultRegs_params_wf s.free r
  busyIff := ⟨nofun, fun h => absurd rfl h⟩
  notBoth := nofun
  txnPhase := rfl
  counters := trivial
  command := fun h => absurd rfl h
  ffcnt := hd.ffcnt
  txFits := hd.txFits
  resFits := resultRegs_plen_le hr s.free

theorem Command.EndsWith.params_le {v : Version} {c : Command} {r : Result} (h : c.EndsWith v r) (st : StatusPacket)
    (hst : r = .okDecode st) : st.params.length ≤ 65531 := by
  subst hst
  cases c with
  | encode => cases h
  | decode =>
    rcases h with ⟨st', e, hl, -⟩ | ⟨c, e⟩
    · cases e; exact hl
    · cases e
  | transaction k => rcases h with e | e <;> cases e

theorem exec_inv {i : Instr} {s t : State} (hd : DataLegal s) (h : exec i s = .next t) : t.Inv := by
  obtain ⟨r, ⟨u, hu, rfl⟩, hr, -⟩ := exec_delivers h
  exact deliver_inv (hu.data hd) hr.params_le

theorem construct_inv (cfg : Cfg) (tr : Transport) : (State.construct cfg tr).Inv where
  pbufWf := rfl
  txWf := rfl
  rxWf := rfl
  resWf := rfl
  busyIff := ⟨nofun, fun h => absurd rfl h⟩
  notBoth := nofun
  txnPhase := rfl
  counters := trivial
  command := fun h => absurd rfl h
  ffcnt := show (0 : BitVec 2) ≠ 3 by decide
  txFits := Nat.zero_le _
  resFits := nofun

/-- Settles O19: reset is a construction. -/
theorem resetIsALegalState : Obligations.ResetIsALegalState :=
  ⟨construct_inv Config.default Transport.quiet, construct_inv⟩

theorem withWorld_inv {s : State} (h : s.Inv) (w : World) : (s.withWorld w).Inv := { h with }

theorem lineArrive_inv {s : State} (h : s.Inv) (bs : List Byte) : (lineArrive bs s).Inv := { h with }

/-- A host write reaches the operands or `RXBUF`, and `CMD` only between commands. -/
theorem applyWrite_inv {s : State} (h : s.Inv) (idle : s.flags.busy = false) (w : PortWrite) : (applyWrite s w).Inv := by
  cases w with
  | cmd v =>
    have hrest : ∀ p : Prop, s.seq.phase ≠ .rest → p := fun p hp => by
      rw [h.busyIff.2 hp] at idle
      cases idle
    exact { h with command := hrest _ }
  | pbuf i bs => exact { h with pbufWf := memWrite_wf h.pbufWf i bs }
  | rxbuf i bs => exact { h with rxWf := memWrite_wf h.rxWf i bs }
  | id | opcode | addr | regw | access | reqw | value | plen | rxlen => exact { h with }

/-! ### In progress -/

/-- A READ_DATA or WRITE_DATA is in progress on legal data, whatever the sequencer holds. -/
structure Engaged (s : State) : Prop where
  data    : DataLegal s
  busy    : s.flags.busy = true
  notDone : s.flags.done = false
  command : s.ops.cmd = 3 ∨ s.ops.cmd = 4

theorem State.Inv.engaged {s : State} (h : s.Inv) (hp : s.seq.phase ≠ .rest) : Engaged s :=
  have hb := h.busyIff.2 hp
  ⟨h.dataLegal, hb, h.notBoth hb, h.command hp⟩

theorem Engaged.inv {s : State} (h : Engaged s) (hp : s.seq.phase ≠ .rest) (ht : phaseTxn s.seq.phase s.seq.txn)
    (hc : phaseCounters s.cfg s.seq) : s.Inv where
  pbufWf := h.data.pbufWf
  txWf := h.data.txWf
  rxWf := h.data.rxWf
  resWf := h.data.resWf
  busyIff := ⟨fun _ => hp, fun _ => h.busy⟩
  notBoth := fun _ => h.notDone
  txnPhase := ht
  counters := hc
  command := fun _ => h.command
  ffcnt := h.data.ffcnt
  txFits := h.data.txFits
  resFits := h.data.resFits

/-- The sequencer and the transport may differ. -/
theorem Engaged.ofSame {s t : State} (h : Engaged s) (hc : t.cfg = s.cfg) (ho : t.ops = s.ops) (hb : t.bufs = s.bufs)
    (hr : t.res = s.res) (ha : t.accs = s.accs) (hf : t.flags = s.flags) : Engaged t :=
  ⟨h.data.ofSame hc (ho ▸ rfl) hb hr ha, hf ▸ h.busy, hf ▸ h.notDone, ho ▸ h.command⟩

theorem Engaged.receives {s t : State} {reads : List Exchange} (h : Engaged s) (g : Receives s t reads) : Engaged t :=
  ⟨h.data.receives g, g.flags ▸ h.busy, g.flags ▸ h.notDone, g.ops ▸ h.command⟩

theorem Engaged.rxRead {s : State} (h : Engaged s) (n : Nat) : Engaged (s.rxRead n).2 := h.receives (rxRead_receives s n)

theorem Engaged.terminate {s : State} (h : Engaged s) {r : Result × TxnState} (hr : phaseTxn (.deliver r.1) r.2) :
    (s.terminate r).Inv :=
  Engaged.inv (h.ofSame rfl rfl rfl rfl rfl rfl) nofun hr trivial

/-- Every response concludes in the terminal state of its result (R107, R108). -/
theorem conclude_phaseTxn (k : Transaction) (q : Sequencer) (r : Received) :
    phaseTxn (.deliver (conclude k q r).1) (conclude k q r).2 := by
  cases r with
  | ok st =>
    rcases classify_cases k q st with ⟨-, h⟩ | ⟨-, -, h⟩ | ⟨-, -, -, -, h⟩ | ⟨-, -, -, -, h⟩ | ⟨-, -, -, h⟩ <;>
      simp only [conclude, h, phaseTxn]
  | err c => rfl
  | timeout => rfl
  | ioError => rfl

/-- A read of the engine, by its bytes and its two failures. -/
theorem readThen_inv {s : State} {n : Nat} {k : List Byte → State → State} (h : Engaged s)
    (hk : ∀ b : List Byte, b.length = n → (k b (s.rxRead n).2).Inv) : (s.readThen n k).Inv := by
  rcases readThen_cases s n k with ⟨b, hb, e⟩ | ⟨-, e⟩ | ⟨-, e⟩
  · rw [e]; exact hk b (read_bytes_length (t := s.transport) (d := s.seq.deadline) hb)
  · rw [e]; exact (h.rxRead n).terminate rfl
  · rw [e]; exact (h.rxRead n).terminate rfl

/-- The phase after a read of the hunt: the window holds the header, or it is used up, or more stray bytes are allowed. -/
theorem afterHuntRead_inv {s : State} (h : Engaged s) (ht : s.seq.txn = .awaitingResponse)
    (hl : s.seq.hunt.length = headerLen s.cfg.version) (hc : s.seq.resyncCnt ≤ s.cfg.resyncWindow)
    (hd : s.seq.deadline = s.cfg.timeout) : s.afterHuntRead.Inv := by
  have hp : ∀ p, Engaged (s.setPhase p) := fun p => h.ofSame rfl rfl rfl rfl rfl rfl
  unfold State.afterHuntRead
  split
  · next hf => exact (hp _).inv nofun ht ⟨of_decide_eq_true hf, hc, hd⟩
  · next hf =>
    split
    · exact h.terminate rfl
    · next hw => exact (hp _).inv nofun ht ⟨hl, fun e => hf (decide_eq_true e), Nat.lt_of_not_le hw, hd⟩

theorem headerLen_pos (v : Version) : 1 ≤ headerLen v := by cases v <;> decide

/-- The block's own step keeps the legal states, phase by phase. -/
theorem engineStep_inv {s : State} (h : s.Inv) (hrest : s.seq.phase ≠ .rest) : (engineStep s).Inv := by
  have he := h.engaged hrest
  have ht := h.txnPhase
  have hc := h.counters
  unfold phaseCounters at hc
  cases hp : s.seq.phase with
  | rest => exact absurd hp hrest
  | write =>
    have hw : Engaged (s.txWrite s.txFrame).2 := he.ofSame rfl rfl rfl rfl rfl rfl
    cases ha : (s.transport.write s.txFrame).1 with
    | ok =>
      rw [engineStep_write_ok hp ha]
      exact Engaged.inv (hw.ofSame rfl rfl rfl rfl rfl rfl) nofun rfl trivial
    | ioError =>
      rw [engineStep_write_ioError hp ha]
      exact hw.terminate rfl
  | sent =>
    by_cases hb : s.isBroadcast s.transaction = true
    · rw [engineStep_sent_broadcast hp hb]
      exact deliver_inv h.dataLegal nofun
    · have hstart : Engaged s.startReceive := he.ofSame rfl rfl rfl rfl rfl rfl
      rw [engineStep_sent_await hp hb]
      refine readThen_inv hstart fun w hw => ?_
      have hopen : Engaged ((s.startReceive.rxRead (headerLen s.cfg.version)).2.openHunt w) :=
        (hstart.rxRead (headerLen s.cfg.version)).ofSame rfl rfl rfl rfl rfl rfl
      exact afterHuntRead_inv hopen rfl hw (Nat.zero_le _) rfl
  | huntNext =>
    rw [hp] at ht hc
    obtain ⟨hl, -, hcnt, hd⟩ := hc
    rw [engineStep_huntNext hp]
    refine readThen_inv he fun d hlen => ?_
    have hslide : Engaged ((s.rxRead 1).2.slideHunt d) := (he.rxRead 1).ofSame rfl rfl rfl rfl rfl rfl
    have hwindow : (s.seq.hunt.drop 1 ++ d).length = headerLen s.cfg.version := by
      have := headerLen_pos s.cfg.version
      simp only [List.length_append, List.length_drop]
      omega
    exact afterHuntRead_inv hslide ht hwindow hcnt hd
  | afterHeader =>
    rw [hp] at ht hc
    obtain ⟨hf, hcnt, hd⟩ := hc
    rw [engineStep_afterHeader hp]
    refine readThen_inv he fun p hlen => ?_
    have hread := he.rxRead (prefixLen s.cfg.version)
    split
    · exact hread.terminate rfl
    · next hmin =>
      exact Engaged.inv (hread.ofSame rfl rfl rfl rfl rfl rfl) nofun ht ⟨hf, hcnt, hd, hlen, Nat.le_of_not_lt hmin⟩
  | body p =>
    rw [engineStep_body hp]
    refine readThen_inv he fun b _ => ?_
    exact ((he.rxRead _).receives (takeFrame_receives _ p b)).terminate (conclude_phaseTxn _ _ _)
  | deliver r =>
    rw [hp] at ht
    rw [engineStep_deliver hp]
    exact deliver_inv h.dataLegal fun st hst => by subst hst; cases ht

/-- A transaction that begins stands before its `TxWrite`. -/
theorem begun_inv {k : Transaction} {s : State} (h : DataLegal s) (ht : Transacts k s) :
    ((s.started k).setPhase .write).Inv := by
  have hidle : s.seq.txn = .idle := ((ready_iff s).1 ht.1).2
  have he : Engaged ((s.started k).setPhase .write) := by
    refine ⟨((started_carries s k).data h).ofSame rfl rfl rfl rfl rfl, ?_, ?_, ?_⟩
    · cases k <;> rfl
    · cases k <;> rfl
    · cases k
      · exact .inl rfl
      · exact .inr rfl
  refine he.inv nofun ?_ trivial
  cases k <;> exact hidle

/-- Settles O20, by what the step did. -/
theorem stepKeepsLegalStates : Obligations.StepKeepsLegalStates := by
  intro s t hinv hs
  obtain ⟨w, h⟩ := step_stepsTo hs
  have hw := withWorld_inv hinv w
  cases h with
  | world w' => exact withWorld_inv hw w'
  | write pw idle => exact applyWrite_inv hw idle pw
  | arrive bs => exact lineArrive_inv hw bs
  | ran i h => exact exec_inv hw.dataLegal h
  | received b h => exact exec_inv (hw.dataLegal.storeRx b) h
  | begun k h => exact begun_inv hw.dataLegal h
  | worked h => exact engineStep_inv hw h

end Sys2Proof.Machine
end

section
/-!
PROOF. O25: no step changes `CFG`.
-/
namespace Sys2Proof.Machine

theorem readThen_cfg {k : List Byte → State → State} (h : ∀ b u, (k b u).cfg = u.cfg) (s : State) (n : Nat) :
    (s.readThen n k).cfg = s.cfg := by
  rcases readThen_cases s n k with ⟨b, -, e⟩ | ⟨-, e⟩ | ⟨-, e⟩
  · rw [e]; exact h b _
  · rw [e]; rfl
  · rw [e]; rfl

theorem afterHuntRead_cfg (s : State) : s.afterHuntRead.cfg = s.cfg := by
  unfold State.afterHuntRead
  split
  · rfl
  · split <;> rfl

theorem engineStep_cfg (s : State) : (engineStep s).cfg = s.cfg := by
  cases hp : s.seq.phase with
  | write =>
    cases ha : (s.transport.write s.txFrame).1 with
    | ok => rw [engineStep_write_ok hp ha]; rfl
    | ioError => rw [engineStep_write_ioError hp ha]; rfl
  | sent =>
    by_cases hb : s.isBroadcast s.transaction = true
    · rw [engineStep_sent_broadcast hp hb]; rfl
    · rw [engineStep_sent_await hp hb]
      exact readThen_cfg (fun w u => afterHuntRead_cfg (u.openHunt w)) s.startReceive _
  | huntNext => rw [engineStep_huntNext hp]; exact readThen_cfg (fun d u => afterHuntRead_cfg (u.slideHunt d)) s 1
  | afterHeader =>
    rw [engineStep_afterHeader hp]
    refine readThen_cfg (fun p u => ?_) s _
    split <;> rfl
  | body p =>
    rw [engineStep_body hp]
    refine readThen_cfg (fun b u => ?_) s _
    exact (takeFrame_receives u p b).cfg
  | rest => rw [engineStep_rest hp]
  | deliver r => rw [engineStep_deliver hp]; rfl

theorem exec_cfg {i : Instr} {s t : State} (h : exec i s = .next t) : t.cfg = s.cfg := by
  obtain ⟨r, ⟨u, hu, rfl⟩, -, -⟩ := exec_delivers h
  exact hu.cfg

theorem applyWrite_cfg (s : State) (w : PortWrite) : (applyWrite s w).cfg = s.cfg := by cases w <;> rfl

/-- Settles O25, by what the step did. -/
theorem configurationNeverChanges : Obligations.ConfigurationNeverChanges := by
  intro s t hs
  obtain ⟨w, h⟩ := step_stepsTo hs
  cases h with
  | world w' => rfl
  | write pw idle => exact applyWrite_cfg _ pw
  | arrive bs => rfl
  | ran i h => exact (exec_cfg h :)
  | received b h => exact (exec_cfg h :)
  | begun k h => exact started_cfg _ k
  | worked h => exact engineStep_cfg _

end Sys2Proof.Machine
end

section
/-!
PROOF. O23, O24 and O31: the host's side of the port.
-/
namespace Sys2Proof.Machine

/-! ### Writes -/

theorem hostWrite_of_idle {s : State} (h : s.flags.busy = false) (w : PortWrite) : hostWrite w s = .next (applyWrite s w) := by
  simp [hostWrite, h]

/-- Settles O23. -/
theorem hostWritesAreRefusedWhileBusy : Obligations.HostWritesAreRefusedWhileBusy := fun _ _ hb => if_pos hb

/-- Settles O24: a write is `applyWrite`; those of bytes by the laws of `memWrite`. -/
theorem hostWritesReachOnlyTheirOwnRegister : Obligations.HostWritesReachOnlyTheirOwnRegister := by
  intro s hinv hb
  have hw := hostWrite_of_idle hb
  refine ⟨fun v => hw (.cmd v), fun v => hw (.id v), fun v => hw (.opcode v), fun v => hw (.addr v), fun v => hw (.regw v),
    fun v => hw (.access v), fun v => hw (.reqw v), fun v => hw (.value v), fun v => hw (.plen v), fun v => hw (.rxlen v),
    fun i bs => ?pbuf, fun i bs => ?rxbuf⟩
  case pbuf =>
    exact ⟨_, hw (.pbuf i bs), memRead_memWrite hinv.pbufWf i bs, fun a => memGet_memWrite_outside hinv.pbufWf i bs, rfl⟩
  case rxbuf =>
    exact ⟨_, hw (.rxbuf i bs), memRead_memWrite hinv.rxWf i bs, fun a => memGet_memWrite_outside hinv.rxWf i bs, rfl⟩

/-! ### Reads -/

theorem specified_kind (n : Nat) (r : Result) : ResReg.kind ∈ (resultRegs n r).specified := by
  cases r with
  | okDecode st => simp only [resultRegs, decodedResults]; split <;> simp
  | _ => simp [resultRegs, kindOnly]

theorem specified_cause (n : Nat) (r : Result) : ResReg.cause ∈ (resultRegs n r).specified ↔ r.kind = .frameError := by
  cases r with
  | okDecode st => simp only [resultRegs, decodedResults, Result.kind]; split <;> simp
  | _ => simp [resultRegs, kindOnly, Result.kind]

theorem specified_id (n : Nat) (r : Result) :
    ResReg.id ∈ (resultRegs n r).specified ↔ (∃ st, r = .okDecode st) ∨ r.kind = .unexpectedId := by
  cases r with
  | okDecode st => simp only [resultRegs, decodedResults]; split <;> simp
  | _ => simp [resultRegs, kindOnly, Result.kind]

theorem specified_err (n : Nat) (r : Result) :
    ResReg.err ∈ (resultRegs n r).specified ↔ (∃ st, r = .okDecode st) ∨ r.kind = .motorError := by
  cases r with
  | okDecode st => simp only [resultRegs, decodedResults]; split <;> simp
  | _ => simp [resultRegs, kindOnly, Result.kind]

theorem specified_instr (n : Nat) (r : Result) :
    ResReg.instr ∈ (resultRegs n r).specified ↔ ∃ st : StatusPacket, r = .okDecode st ∧ st.instr.isSome = true := by
  cases r with
  | okDecode st => simp only [resultRegs, decodedResults]; split <;> simp_all
  | _ => simp [resultRegs, kindOnly]

theorem specified_value (n : Nat) (r : Result) : ResReg.value ∈ (resultRegs n r).specified ↔ ∃ v, r = .okRead v := by
  cases r with
  | okDecode st => simp only [resultRegs, decodedResults]; split <;> simp
  | _ => simp [resultRegs, kindOnly]

/-- Right after a delivery a result register is valid when the result specifies it. -/
theorem resValid_deliver (r : Result) (u : State) (q : ResReg) :
    (deliver r u).resValid q = true ↔ q ∈ (resultRegs u.free r).specified := by
  simp [State.resValid, Flags.completed]

/-- Only DECODE and the status rows deliver a packet, which is their `OK`. -/
theorem Command.EndsWith.okDecode_iff {v : Version} {c : Command} {r : Result} (h : c.EndsWith v r) :
    (∃ st, r = .okDecode st) ↔ c.instr.decodes = true ∧ r.kind = .ok := by
  cases c with
  | encode => cases h; exact ⟨nofun, nofun⟩
  | decode =>
    rcases h with ⟨st, rfl, -⟩ | ⟨c, rfl⟩
    · exact ⟨fun _ => ⟨rfl, rfl⟩, fun _ => ⟨st, rfl⟩⟩
    · exact ⟨nofun, nofun⟩
  | transaction k =>
    have hk : (Command.transaction k).instr.decodes = false := by cases k <;> rfl
    rw [hk]
    refine ⟨?_, nofun⟩
    rintro ⟨st, rfl⟩
    rcases h with e | e <;> cases e

/-- The packet has an INSTR byte in v2. -/
theorem Command.EndsWith.okDecode_instr_iff {v : Version} {c : Command} {r : Result} (h : c.EndsWith v r) :
    (∃ st : StatusPacket, r = .okDecode st ∧ st.instr.isSome = true) ↔
      c.instr.decodes = true ∧ r.kind = .ok ∧ v = .v2 := by
  have hpacket : ∀ st : StatusPacket, r = .okDecode st → (st.instr.isSome = true ↔ v = .v2) := by
    rintro st rfl
    cases c with
    | encode => cases h
    | decode =>
      rcases h with ⟨st', e, -, hv⟩ | ⟨c, e⟩
      · cases e; exact hv
      · cases e
    | transaction k => rcases h with e | e <;> cases e
  rw [← and_assoc, ← h.okDecode_iff]
  constructor
  · rintro ⟨st, hr, hi⟩
    exact ⟨⟨st, hr⟩, (hpacket st hr).1 hi⟩
  · rintro ⟨⟨st, hr⟩, hv⟩
    exact ⟨st, hr, (hpacket st hr).2 hv⟩

/-- Only READ_DATA and the READ rows deliver a value, which is their `OK`. -/
theorem Command.EndsWith.okRead_iff {v : Version} {c : Command} {r : Result} (h : c.EndsWith v r) :
    (∃ x, r = .okRead x) ↔ c.instr.reads = true ∧ r.kind = .ok := by
  cases c with
  | encode => cases h; exact ⟨nofun, nofun⟩
  | decode => rcases h with ⟨st, rfl, -⟩ | ⟨c, rfl⟩ <;> exact ⟨nofun, nofun⟩
  | transaction k =>
    cases k with
    | write =>
      refine ⟨?_, nofun⟩
      rintro ⟨x, rfl⟩
      rcases h with e | e <;> cases e
    | read =>
      constructor
      · rintro ⟨x, rfl⟩
        exact ⟨rfl, rfl⟩
      · rintro ⟨-, hk⟩
        rcases h with rfl | e
        · cases hk
        · cases r with
          | okRead x => exact ⟨x, rfl⟩
          | okEncode | okDecode | okWrite => cases e
          | frameError | timeout | motorError | unexpectedId | widthMismatch | ioError => cases hk

/-- `TXBUF` is the host's after ENCODE, and stays so over DECODE and a failed width check. -/
theorem Command.EndsWith.txEncodedAfter_iff {v : Version} {c : Command} {r : Result} (h : c.EndsWith v r) (b : Bool) :
    c.txEncodedAfter r b = true ↔
      c.instr.encodes = true ∨ ((c.instr.decodes = true ∨ r.kind = .widthMismatch) ∧ b = true) := by
  cases c with
  | encode => exact ⟨fun _ => .inl rfl, fun _ => rfl⟩
  | decode => exact ⟨fun hb => .inr ⟨.inl rfl, hb⟩, fun hb => hb.resolve_left nofun |>.2⟩
  | transaction k =>
    have henc : (Command.transaction k).instr.encodes = false := by cases k <;> rfl
    have hdec : (Command.transaction k).instr.decodes = false := by cases k <;> rfl
    rw [henc, hdec]
    rcases h with rfl | h
    · simp [Command.txEncodedAfter, Result.kind]
    · have hkind : r.kind ≠ .widthMismatch := by
        cases r with
        | widthMismatch => cases h
        | _ => nofun
      simp [txEncodedAfter_of_endsWith h, hkind]

theorem encodes_eq (i : Instr) : i.encodes = (commandOf i).instr.encodes := by cases i <;> rfl

theorem decodes_eq (i : Instr) : i.decodes = (commandOf i).instr.decodes := by cases i <;> rfl

theorem reads_eq (i : Instr) : i.reads = (commandOf i).instr.reads := by cases i <;> rfl

theorem hostRead_of_not_readable {s : State} {r : HostReg} (h : readable s r = false) :
    hostRead r s = .fault (.unspecifiedRead r) := by
  simp [hostRead, h]

/-- Settles O31: what the delivered result specifies, with the results each command can deliver. -/
theorem hostReadsGiveOnlyMeaningfulResults : Obligations.HostReadsGiveOnlyMeaningfulResults := by
  intro i s t h
  obtain ⟨r, ⟨u, hu, rfl⟩, hr, htx⟩ := exec_delivers h
  have hvalid := resValid_deliver r u
  have hkind : (deliver r u).res.kind = r.kind := resultRegs_kind u.free r
  rw [encodes_eq, decodes_eq, reads_eq, hkind]
  have hparams : readable (deliver r u) .plen = true ↔ (commandOf i).instr.decodes = true ∧ r.kind = .ok :=
    (hvalid .params).trans ((specified_params u.free r).trans hr.okDecode_iff)
  refine ⟨(hvalid .kind).2 (specified_kind u.free r), (hvalid .cause).trans (specified_cause u.free r), ?id,
    (hvalid .instr).trans ((specified_instr u.free r).trans hr.okDecode_instr_iff), ?err,
    (hvalid .value).trans ((specified_value u.free r).trans hr.okRead_iff), hparams, fun k => ?params, ?txlen, fun k => ?txbuf,
    fun q => hostRead_of_not_readable, fun q hq => if_pos hq⟩
  case id => rw [← hr.okDecode_iff]; exact (hvalid .id).trans (specified_id u.free r)
  case err => rw [← hr.okDecode_iff]; exact (hvalid .err).trans (specified_err u.free r)
  case params =>
    rw [← and_assoc, ← hparams]
    exact Bool.and_eq_true_iff.trans (and_congr_right fun _ => decide_eq_true_iff)
  case txlen => rw [← hr.txEncodedAfter_iff, ← htx]; rfl
  case txbuf => exact Bool.and_eq_true_iff.trans (and_congr_right fun _ => decide_eq_true_iff)

end Sys2Proof.Machine
end

section
/-!
PROOF. O53: two idle states that agree in `CFG`, the operands and the transport (`Twins`) are run to the same result. RECEIVE is
followed in both at once (`Listening`), as the chain of reads `receiveThen`.
-/
namespace Sys2Proof.Machine

/-- What the next result may depend on is the same in both states: `CFG`, the operands, the transport, and the number for free
values (log 8). The frame buffers hold canonical memories and may differ, as may everything else. -/
structure Twins (s s' : State) : Prop where
  cfg       : s'.cfg = s.cfg
  ops       : s'.ops = s.ops
  transport : s'.transport = s.transport
  free      : s'.free = s.free
  txWf      : Memory.wf s.bufs.tx = true
  txWf'     : Memory.wf s'.bufs.tx = true
  rxWf      : Memory.wf s.bufs.rx = true
  rxWf'     : Memory.wf s'.bufs.rx = true

/-- The same result registers, transport and operands. -/
structure SameResult (t t' : State) : Prop where
  res       : t'.res = t.res
  transport : t'.transport = t.transport
  ops       : t'.ops = t.ops

/-- Both outcomes are next states with the same result, or the same refusal, or the same fault. -/
def Agree : Out → Out → Prop
  | .next t, .next t' => SameResult t t'
  | .refused r, .refused r' => r' = r
  | .fault f, .fault f' => f' = f
  | _, _ => False

theorem Agree.next {o o' : Out} (h : Agree o o') {t : State} (ht : o = .next t) :
    ∃ t', o' = .next t' ∧ t'.res = t.res ∧ t'.transport = t.transport ∧ t'.ops = t.ops := by
  subst ht
  cases o' with
  | next t' => exact ⟨t', rfl, h.res, h.transport, h.ops⟩
  | fault f => cases h
  | refused r => cases h

theorem Agree.refused {o o' : Out} (h : Agree o o') {r : Refusal} (hr : o = .refused r) : o' = .refused r := by
  subst hr
  cases o' with
  | next t' => cases h
  | fault f => cases h
  | refused r' => exact congrArg _ h

theorem agree_ite {c : Prop} [Decidable c] {x y x' y' : Out} (hx : Agree x x') (hy : Agree y y') :
    Agree (if c then x else y) (if c then x' else y') := by
  split
  · exact hx
  · exact hy

/-- The same result is delivered in both. -/
theorem deliver_sameResult (r : Result) (u u' : State) (hf : u'.free = u.free) (ht : u'.transport = u.transport)
    (ho : u'.ops = u.ops) : SameResult (deliver r u) (deliver r u') :=
  ⟨congrArg (resultRegs · r) hf, ht, ho⟩

/-! ### What both states go through together -/

theorem Twins.withOps {s s' : State} (h : Twins s s') (o : Operands) : Twins (s.withOps o) (s'.withOps o) :=
  { h with ops := rfl }

theorem Twins.storeRx {s s' : State} (h : Twins s s') (f : List Byte) : Twins (s.storeRx f) (s'.storeRx f) :=
  { h with rxWf := memWrite_wf h.rxWf 0 f, rxWf' := memWrite_wf h.rxWf' 0 f }

theorem Twins.accepted {s s' : State} (h : Twins s s') (c : BitVec 3) : Twins (s.setCmd c).accept (s'.setCmd c).accept :=
  { h with ops := by simp only [accept_ops, setCmd_ops, h.ops] }

theorem Twins.requestParams_eq {s s' : State} (h : Twins s s') (k : Transaction) : requestParams k s' = requestParams k s := by
  cases k <;> simp only [requestParams, h.cfg, h.ops]

theorem Twins.isBroadcast_eq {s s' : State} (h : Twins s s') (k : Transaction) : s'.isBroadcast k = s.isBroadcast k := by
  cases k <;> simp only [State.isBroadcast, h.cfg, h.ops]

theorem Twins.prepare {s s' : State} (h : Twins s s') (k : Transaction) : Twins (s.prepare k) (s'.prepare k) where
  cfg := by rw [prepare_cfg, prepare_cfg, h.cfg]
  ops := by rw [prepare_ops, prepare_ops, h.ops]
  transport := by rw [prepare_transport, prepare_transport, h.transport]
  free := by rw [prepare_free, prepare_free, h.free]
  txWf := by rw [prepare_bufs]; exact memWrite_wf h.txWf 0 _
  txWf' := by rw [prepare_bufs]; exact memWrite_wf h.txWf' 0 _
  rxWf := by rw [prepare_bufs]; exact h.rxWf
  rxWf' := by rw [prepare_bufs]; exact h.rxWf'

theorem prepare_txFrame {s : State} (h : Memory.wf s.bufs.tx = true) (k : Transaction) :
    (s.prepare k).txFrame = requestFrame k s := by
  cases k <;> exact memRead_memWrite h 0 _

theorem Twins.requestFrame_eq {s s' : State} (h : Twins s s') (k : Transaction) : requestFrame k s' = requestFrame k s := by
  simp only [requestFrame, h.requestParams_eq, h.cfg, h.ops]

/-! ### RECEIVE in both -/

/-- Both wait for the response of the same request, under the same deadline. `REQ_W` is read for a READ_DATA only. -/
structure Listening (k : Transaction) (s s' : State) : Prop extends Twins s s' where
  reqId    : s'.seq.reqId = s.seq.reqId
  reqW     : k = .read → s'.seq.reqW = s.seq.reqW
  deadline : s'.seq.deadline = s.seq.deadline

/-- Both have received the same. -/
def Heard (k : Transaction) (x x' : Received × State) : Prop := x'.1 = x.1 ∧ Listening k x.2 x'.2

theorem Listening.read_eq {k : Transaction} {s s' : State} (h : Listening k s s') (n : Nat) :
    s'.transport.read n s'.seq.deadline = s.transport.read n s.seq.deadline := by
  rw [h.transport, h.deadline]

theorem Listening.rxRead {k : Transaction} {s s' : State} (h : Listening k s s') (n : Nat) :
    Listening k (s.rxRead n).2 (s'.rxRead n).2 :=
  { h with transport := congrArg Prod.snd (h.read_eq n) }

/-- One read: what follows it decides. -/
theorem Listening.receiveThen_heard {k : Transaction} {s s' : State} (h : Listening k s s') {n : Nat}
    {f f' : List Byte → State → Received × State} (hf : ∀ b, Heard k (f b (s.rxRead n).2) (f' b (s'.rxRead n).2)) :
    Heard k (receiveThen s n f) (receiveThen s' n f') := by
  have ha : (s'.rxRead n).1 = (s.rxRead n).1 := by rw [rxRead_fst, rxRead_fst, h.read_eq n]
  cases hr : (s.rxRead n).1 with
  | bytes b =>
    rw [receiveThen_bytes hr, receiveThen_bytes (ha.trans hr)]
    exact hf b
  | timeout =>
    rw [receiveThen_timeout hr, receiveThen_timeout (ha.trans hr)]
    exact ⟨rfl, h.rxRead n⟩
  | ioError =>
    rw [receiveThen_ioError hr, receiveThen_ioError (ha.trans hr)]
    exact ⟨rfl, h.rxRead n⟩

/-- The frame is stored in both and read back from either buffer. -/
theorem Listening.takeFrame_heard {k : Transaction} {s s' : State} (h : Listening k s s') (p b : List Byte) :
    Heard k (takeFrame s p b) (takeFrame s' p b) := by
  rw [takeFrame_eq, takeFrame_eq, rxFrame_storeRx h.rxWf, rxFrame_storeRx h.rxWf', h.cfg]
  exact ⟨rfl, { h with rxWf := memWrite_wf h.rxWf 0 _, rxWf' := memWrite_wf h.rxWf' 0 _ }⟩

theorem Listening.receiveBody_heard {k : Transaction} {s s' : State} (h : Listening k s s') (p : List Byte) :
    Heard k (receiveBody p s) (receiveBody p s') := by
  rw [receiveBody_eq, receiveBody_eq, h.cfg]
  exact h.receiveThen_heard fun b => (h.rxRead _).takeFrame_heard p b

theorem Listening.receivePrefix_heard {k : Transaction} {s s' : State} (h : Listening k s s') :
    Heard k (receivePrefix s) (receivePrefix s') := by
  rw [receivePrefix_eq, receivePrefix_eq, h.cfg]
  refine h.receiveThen_heard fun p => ?_
  have hr := h.rxRead (prefixLen s.cfg.version)
  rw [hr.cfg]
  split
  · exact ⟨rfl, hr⟩
  · exact hr.receiveBody_heard p

/-- The hunt, from the same window. -/
theorem Listening.receiveHunt_heard {k : Transaction} (left : Nat) {s s' : State} (h : Listening k s s')
    (hh : s'.seq.hunt = s.seq.hunt) : Heard k (receiveHunt left s) (receiveHunt left s') := by
  have found : ∀ {u u' : State}, Twins u u' → u'.seq.hunt = u.seq.hunt → u'.headerFound = u.headerFound := by
    intro u u' hu hw
    simp only [State.headerFound, hw, hu.cfg]
  induction left generalizing s s' with
  | zero =>
    have hf := found h.toTwins hh
    by_cases hs : s.headerFound = true
    · rw [receiveHunt_found hs, receiveHunt_found (hf.trans hs)]
      exact h.receivePrefix_heard
    · rw [receiveHunt_usedUp hs, receiveHunt_usedUp (hf ▸ hs)]
      exact ⟨rfl, h⟩
  | succ left ih =>
    have hf := found h.toTwins hh
    by_cases hs : s.headerFound = true
    · rw [receiveHunt_found hs, receiveHunt_found (hf.trans hs)]
      exact h.receivePrefix_heard
    · rw [receiveHunt_slide hs, receiveHunt_slide (hf ▸ hs)]
      refine h.receiveThen_heard fun d => ?_
      have hslide : Listening k ((s.rxRead 1).2.slideHunt d) ((s'.rxRead 1).2.slideHunt d) := { h.rxRead 1 with }
      refine ih hslide ?_
      simp only [slideHunt_seq, rxRead_seq, hh]

theorem Listening.receive_heard {k : Transaction} {s s' : State} (h : Listening k s s') : Heard k (receive s) (receive s') := by
  rw [receive_eq, receive_eq, h.cfg]
  refine h.receiveThen_heard fun w => ?_
  have hopen : Listening k ((s.rxRead (headerLen s.cfg.version)).2.openHunt w)
      ((s'.rxRead (headerLen s.cfg.version)).2.openHunt w) := { h.rxRead _ with }
  rw [rxRead_cfg, rxRead_cfg, h.cfg]
  exact hopen.receiveHunt_heard _ rfl

/-- The response is judged by `REQ_ID`, and for a READ_DATA by `REQ_W`. -/
theorem Listening.conclude_eq {k : Transaction} {s s' : State} (h : Listening k s s') (r : Received) :
    conclude k s'.seq r = conclude k s.seq r := by
  cases k with
  | read => exact conclude_congr .read h.reqId (h.reqW rfl) r
  | write =>
    cases r with
    | ok st => simp only [conclude, classify, h.reqId]
    | err c => rfl
    | timeout => rfl
    | ioError => rfl

/-! ### A transaction in both -/

theorem transact_of_ioError {k : Transaction} {s : State} (ha : (s.transport.write s.txFrame).1 = .ioError) :
    transact k s = finish (.ioError, .ioFailed) (s.txWrite s.txFrame).2 := by
  rcases transact_cases k s with ⟨-, e⟩ | ⟨ha', -, -⟩ | ⟨ha', -, -⟩
  · exact e
  · cases ha.symm.trans ha'
  · cases ha.symm.trans ha'

theorem transact_of_broadcast {k : Transaction} {s : State} (ha : (s.transport.write s.txFrame).1 = .ok)
    (hb : s.isBroadcast k = true) : transact k s = deliver .okWrite ((s.txWrite s.txFrame).2.setTxn .sent) := by
  rcases transact_cases k s with ⟨ha', -⟩ | ⟨-, -, e⟩ | ⟨-, hb', -⟩
  · cases ha.symm.trans ha'
  · exact e
  · cases hb.symm.trans hb'

theorem transact_of_sent {k : Transaction} {s : State} (ha : (s.transport.write s.txFrame).1 = .ok)
    (hb : s.isBroadcast k = false) :
    transact k s = concluded k (receive ((s.txWrite s.txFrame).2.setTxn .sent).startReceive) := by
  rcases transact_cases k s with ⟨ha', -⟩ | ⟨-, hb', -⟩ | ⟨-, -, e⟩
  · cases ha.symm.trans ha'
  · cases hb.symm.trans hb'
  · exact e

theorem Heard.concluded_sameResult {k : Transaction} {x x' : Received × State} (h : Heard k x x') :
    SameResult (concluded k x) (concluded k x') := by
  obtain ⟨hr, hl⟩ := h
  unfold concluded
  rw [hr, hl.conclude_eq]
  exact deliver_sameResult _ _ _ hl.free hl.transport hl.ops

/-- From the same frame in `TXBUF`, and the same latched request. -/
theorem Twins.transact_sameResult {k : Transaction} {s s' : State} (h : Twins s s') (hf : s'.txFrame = s.txFrame)
    (hid : s'.seq.reqId = s.seq.reqId) (hw : k = .read → s'.seq.reqW = s.seq.reqW) :
    SameResult (transact k s) (transact k s') := by
  have hwrite : s'.transport.write s'.txFrame = s.transport.write s.txFrame := by rw [h.transport, hf]
  have hans : (s'.transport.write s'.txFrame).1 = (s.transport.write s.txFrame).1 := congrArg Prod.fst hwrite
  have htr : (s'.transport.write s'.txFrame).2 = (s.transport.write s.txFrame).2 := congrArg Prod.snd hwrite
  cases ha : (s.transport.write s.txFrame).1 with
  | ioError =>
    rw [transact_of_ioError ha, transact_of_ioError (hans.trans ha)]
    exact deliver_sameResult .ioError (s.txWrite s.txFrame).2 (s'.txWrite s'.txFrame).2 h.free htr h.ops
  | ok =>
    cases hb : s.isBroadcast k with
    | true =>
      rw [transact_of_broadcast ha hb, transact_of_broadcast (hans.trans ha) ((h.isBroadcast_eq k).trans hb)]
      exact deliver_sameResult .okWrite (s.txWrite s.txFrame).2 (s'.txWrite s'.txFrame).2 h.free htr h.ops
    | false =>
      rw [transact_of_sent ha hb, transact_of_sent (hans.trans ha) ((h.isBroadcast_eq k).trans hb)]
      have hl : Listening k ((s.txWrite s.txFrame).2.setTxn .sent).startReceive
          ((s'.txWrite s'.txFrame).2.setTxn .sent).startReceive :=
        { h with transport := htr, reqId := hid, reqW := hw, deadline := congrArg Cfg.timeout h.cfg }
      exact hl.receive_heard.concluded_sameResult

/-! ### The commands and the rows in both -/

theorem Twins.transactionBody_agree {s s' : State} (h : Twins s s') (k : Transaction) :
    Agree (transactionBody k s) (transactionBody k s') := by
  unfold transactionBody
  rw [h.cfg, h.ops]
  refine agree_ite (deliver_sameResult .widthMismatch s s' h.free h.transport h.ops) (agree_ite rfl ?_)
  refine (h.prepare k).transact_sameResult ?frame ?reqId ?reqW
  case frame => rw [prepare_txFrame h.txWf, prepare_txFrame h.txWf', h.requestFrame_eq]
  case reqId => rw [prepare_seq, prepare_seq, latchRequest_reqId, latchRequest_reqId, h.ops]
  case reqW =>
    rintro rfl
    rw [prepare_seq, prepare_seq, latchRequest_reqW, latchRequest_reqW, h.ops]

theorem Twins.encodeBody_agree {s s' : State} (h : Twins s s') : Agree (encodeBody s) (encodeBody s') := by
  unfold encodeBody
  rw [h.cfg, h.ops]
  exact agree_ite (deliver_sameResult .okEncode (State.giveTx _) (State.giveTx _) h.free h.transport h.ops) rfl

theorem Twins.decode_agree {s s' : State} (h : Twins s s') (hr : s.ready = true) (hr' : s'.ready = true)
    (hf : s'.rxFrame = s.rxFrame) : Agree (exec .decode s) (exec .decode s') := by
  rw [exec_decode_of_ready hr, exec_decode_of_ready hr', h.cfg, hf]
  have ha := h.accepted 2
  exact deliver_sameResult _ (s.setCmd 2).accept.decodeRx.2 (s'.setCmd 2).accept.decodeRx.2 ha.free ha.transport ha.ops

/-- A command offered in both, both idle. -/
theorem Twins.offer_agree {s s' : State} (h : Twins s s') (hr : s.ready = true) (hr' : s'.ready = true) (c : BitVec 3)
    {k : State → Out} (hk : ∀ {u u' : State}, Twins u u' → Agree (k u) (k u')) :
    Agree (offer (s.setCmd c) k) (offer (s'.setCmd c) k) := by
  rw [offer_of_ready (s := s.setCmd c) hr, offer_of_ready (s := s'.setCmd c) hr']
  exact hk (h.accepted c)

theorem Twins.encode_agree {s s' : State} (h : Twins s s') (hr : s.ready = true) (hr' : s'.ready = true) :
    Agree (execEncode s) (execEncode s') := h.offer_agree hr hr' 1 Twins.encodeBody_agree

theorem Twins.readData_agree {s s' : State} (h : Twins s s') (hr : s.ready = true) (hr' : s'.ready = true) :
    Agree (execReadData s) (execReadData s') := h.offer_agree hr hr' 3 fun hu => hu.transactionBody_agree .read

theorem Twins.writeData_agree {s s' : State} (h : Twins s s') (hr : s.ready = true) (hr' : s'.ready = true) :
    Agree (execWriteData s) (execWriteData s') := h.offer_agree hr hr' 4 fun hu => hu.transactionBody_agree .write

theorem Twins.onlyIn_agree {s s' : State} (h : Twins s s') (hr : s.ready = true) (hr' : s'.ready = true) (v : Version)
    {x x' : Out} (hx : Agree x x') : Agree (onlyIn v s x) (onlyIn v s' x') := by
  unfold onlyIn
  rw [if_pos hr, if_pos hr', h.cfg]
  exact agree_ite hx rfl

theorem Twins.encodeCall_agree {s s' : State} (h : Twins s s') (hr : s.ready = true) (hr' : s'.ready = true) (v : Version)
    (id op : Byte) (ps : List Byte) : Agree (encodeCall v id op ps s) (encodeCall v id op ps s') := by
  refine h.onlyIn_agree hr hr' v (agree_ite ?_ rfl)
  rw [h.ops]
  exact (h.withOps _).encode_agree hr hr'

theorem Twins.readCall_agree {s s' : State} (h : Twins s s') (hr : s.ready = true) (hr' : s'.ready = true) (v : Version)
    (id : Byte) (a : Word16) (w : Width) : Agree (readCall v id a w s) (readCall v id a w s') := by
  refine h.onlyIn_agree hr hr' v ?_
  rw [h.ops]
  exact (h.withOps _).readData_agree hr hr'

theorem Twins.writeCall_agree {s s' : State} (h : Twins s s') (hr : s.ready = true) (hr' : s'.ready = true) (v : Version)
    (id : Byte) (a : Word16) (w : Width) (x : Word32) : Agree (writeCall v id a w x s) (writeCall v id a w x s') := by
  refine h.onlyIn_agree hr hr' v ?_
  rw [h.ops]
  exact (h.withOps _).writeData_agree hr hr'

/-- A status frame is stored in both, so DECODE reads the same. -/
theorem Twins.decodeCall_agree {s s' : State} (h : Twins s s') (hr : s.ready = true) (hr' : s'.ready = true) (b : List Byte) :
    Agree (decodeCall b s) (decodeCall b s') := by
  unfold decodeCall
  rw [if_pos hr, if_pos hr']
  have hf : (s'.storeRx b).rxFrame = (s.storeRx b).rxFrame := by rw [rxFrame_storeRx h.rxWf, rxFrame_storeRx h.rxWf']
  exact (h.storeRx b).decode_agree hr hr' hf

theorem Twins.exec_agree {s s' : State} (h : Twins s s') (hr : s.ready = true) (hr' : s'.ready = true) (i : Instr)
    (hf : i = .decode → s'.rxFrame = s.rxFrame) : Agree (exec i s) (exec i s') := by
  cases i with
  | encode => exact h.encode_agree hr hr'
  | decode => exact h.decode_agree hr hr' (hf rfl)
  | readData => exact h.readData_agree hr hr'
  | writeData => exact h.writeData_agree hr hr'
  | v1Instruction id op ps => exact h.encodeCall_agree hr hr' .v1 id op ps
  | v2Instruction id op ps => exact h.encodeCall_agree hr hr' .v2 id op ps
  | v1Status id e ps => exact agree_ite (h.decodeCall_agree hr hr' _) rfl
  | v2Status id i e ps =>
    change Agree (execV2Status id i e ps s) (execV2Status id i e ps s')
    unfold execV2Status
    rw [h.cfg]
    exact agree_ite (h.decodeCall_agree hr hr' _) rfl
  | readV1 id a w => exact h.readCall_agree hr hr' .v1 id _ w
  | readV2 id a w => exact h.readCall_agree hr hr' .v2 id a w
  | writeV1W1 id a x => exact h.writeCall_agree hr hr' .v1 id _ .w1 _
  | writeV1W2 id a x => exact h.writeCall_agree hr hr' .v1 id _ .w2 _
  | writeV1W4 id a x => exact h.writeCall_agree hr hr' .v1 id _ .w4 x
  | writeV2W1 id a x => exact h.writeCall_agree hr hr' .v2 id a .w1 _
  | writeV2W2 id a x => exact h.writeCall_agree hr hr' .v2 id a .w2 _
  | writeV2W4 id a x => exact h.writeCall_agree hr hr' .v2 id a .w4 x

/-- Settles O53: legal states that agree as asked are `Twins`. -/
theorem otherRegistersAreDeadBetweenCommands : Obligations.OtherRegistersAreDeadBetweenCommands := by
  intro i s s' hinv hinv' hr hr' hcfg hops htransport hfree hf
  have h : Twins s s' := ⟨hcfg, hops, htransport, hfree, hinv.txWf, hinv'.txWf, hinv.rxWf, hinv'.rxWf⟩
  have ha := h.exec_agree hr hr' i hf
  exact ⟨fun t => ha.next, fun r => ha.refused⟩

end Sys2Proof.Machine
end

section
/-!
PROOF. O41: a transaction that runs hands its frame over in one `TxWrite` and then only reads (`WritesOnceThenReads`), in each of
the three ways it can go.
-/
namespace Sys2Proof.Machine

/-- From `s`, whose frame is built, to the completed `t`: one `TxWrite` of the frame, answered `a`, then `reads` under
`CFG.TIMEOUT`; none after an `IoError`, which is the result; the frame stays in `TXBUF`. -/
structure WritesOnceThenReads (s t : State) (a : TxAnswer) (reads : List Exchange) : Prop where
  log     : t.transport.log = s.transport.log ++ .txWrite s.txFrame a :: reads
  isRead  : ∀ e ∈ reads, e.isRead s.cfg.timeout
  failed  : a = .ioError → reads = [] ∧ t.res.kind = .ioError
  txFrame : t.txFrame = s.txFrame

/-- A delivery right after the `TxWrite`: there is no read. -/
theorem finish_writesOnce {s : State} {a : TxAnswer} (ha : (s.transport.write s.txFrame).1 = a) (r : Result × TxnState)
    (hr : a = .ioError → r.1.kind = .ioError) :
    WritesOnceThenReads s (finish r (s.txWrite s.txFrame).2) a [] where
  log := ha ▸ write_log s.transport s.txFrame
  isRead := nofun
  failed := fun h => ⟨rfl, (resultRegs_kind _ _).trans (hr h)⟩
  txFrame := rfl

/-- The response half after a `TxWrite` answered `Ok`: the reads are those of RECEIVE, under the deadline fixed at its start. -/
theorem awaitResponse_writesOnce (k : Transaction) {s : State} (ha : (s.transport.write s.txFrame).1 = .ok) :
    ∃ reads, WritesOnceThenReads s (awaitResponse k ((s.txWrite s.txFrame).2.setTxn .sent)) .ok reads := by
  obtain ⟨reads, hr, -, -, e⟩ := awaitResponse_eq k ((s.txWrite s.txFrame).2.setTxn .sent)
  have hwrite : (s.transport.write s.txFrame).2.log = s.transport.log ++ [.txWrite s.txFrame .ok] :=
    ha ▸ write_log s.transport s.txFrame
  refine ⟨reads, ?log, hr.isRead, nofun, e ▸ txFrame_congr hr.tx hr.txlen⟩
  case log =>
    rw [e, finish_transport, hr.log, List.append_cons, ← hwrite]
    rfl

/-- Whatever the transport answers. -/
theorem transact_writesOnce (k : Transaction) (s : State) :
    ∃ a reads, WritesOnceThenReads s (transact k s) a reads := by
  rcases transact_cases k s with ⟨ha, e⟩ | ⟨ha, -, e⟩ | ⟨ha, -, e⟩
  · rw [e]; exact ⟨_, _, finish_writesOnce ha (.ioError, .ioFailed) fun _ => rfl⟩
  · rw [e]; exact ⟨_, _, finish_writesOnce ha (.okWrite, .sent) nofun⟩
  · rw [e]; exact ⟨_, awaitResponse_writesOnce k ha⟩

theorem started_log (s : State) (k : Transaction) : (s.started k).transport.log = s.transport.log := by
  cases k <;> rfl

/-- Settles O41: the transaction runs from the built frame, and completes by a delivery. -/
theorem transactionsWriteOnceAndThenOnlyRead : Obligations.TransactionsWriteOnceAndThenOnlyRead := by
  intro k s hinv ht
  obtain ⟨a, reads, h⟩ := transact_writesOnce k (s.started k)
  obtain ⟨r, u, hdelivered, -⟩ := transact_delivers k (s.started k)
  have hframe : (s.started k).txFrame = requestFrame k s := started_txFrame hinv.txWf k
  refine ⟨_, a, reads, exec_of_transacts ht, ?log, ?isRead, h.failed, h.txFrame.trans hframe, ?flags, ?idle⟩
  case log => rw [h.log, started_log, hframe]
  case isRead => rw [← started_cfg s k]; exact h.isRead
  case flags => rw [hdelivered]; rfl
  case idle => rw [hdelivered]; rfl

end Sys2Proof.Machine
end

section
/-!
PROOF. Facts for the statements of `30_encoding.md`, first: stuffing and unstuffing undo each other, and the two decoders accept
exactly the encoders' frames.
-/
namespace Sys2Proof.Machine

/-! ### Stuffing -/

/-- Unstuffing undoes stuffing (`42_codec_v2.md` R83). -/
theorem unstuffFrom_stuffFrom (ff : BitVec 2) (p : List Byte) : unstuffFrom ff (stuffFrom ff p) = .ok p := by
  induction p generalizing ff with
  | nil => rfl
  | cons d p ih =>
    by_cases ht : isTrigger ff d = true
    · rw [stuffFrom_trigger p ht, unstuffFrom_escaped _ ht, ih 0]; rfl
    · rw [stuffFrom_plain p ht, unstuffFrom_plain _ ht, ih (ffNext ff d)]; rfl

/-- Unstuffing accepts only what stuffing gives. -/
theorem stuffFrom_of_unstuffFrom {ff : BitVec 2} {w p : List Byte} (h : unstuffFrom ff w = .ok p) : stuffFrom ff p = w := by
  induction ff, w using unstuffFrom.induct generalizing p with
  | case1 ff => cases h; rfl
  | case2 ff d ht => rw [unstuffFrom_cut ht] at h; cases h
  | case3 ff d ht w ih =>
    rw [unstuffFrom_escaped w ht] at h
    obtain ⟨q, hq, rfl⟩ := map_cons_eq_ok h
    rw [stuffFrom_trigger q ht, ih hq]
  | case4 ff d ht e w he => rw [unstuffFrom_unescaped w ht he] at h; cases h
  | case5 ff d w ht ih =>
    rw [unstuffFrom_plain w ht] at h
    obtain ⟨q, hq, rfl⟩ := map_cons_eq_ok h
    rw [stuffFrom_plain q ht, ih hq]

theorem unstuff_stuff (p : List Byte) : unstuff (stuff p) = .ok p := unstuffFrom_stuffFrom 0 p

theorem stuff_of_unstuff {w p : List Byte} (h : unstuff w = .ok p) : stuff p = w := stuffFrom_of_unstuffFrom h

/-! ### Decoding v1 frames -/

/-- `DEC_V1` reads a frame of the domain back (`41_codec_v1.md` R78). -/
theorem decV1_encV1 (id op : Byte) {ps : List Byte} (h : ps.length ≤ 253) :
    decV1 (encV1 id op ps) = .ok { id := id, instr := none, error := op, params := ps } := by
  have hlen : (BitVec.ofNat 8 (ps.length + 2)).toNat = ps.length + 2 := by rw [BitVec.toNat_ofNat]; omega
  rw [encV1_cons, decV1_cons, hlen, if_neg (by simp), if_neg (by omega), if_neg (by omega), if_neg (by simp)]

/-- What `DEC_V1` accepts is the frame of the fields it returns. -/
theorem decV1_ok {b : List Byte} {st : StatusPacket} (h : decV1 b = .ok st) :
    st.instr = none ∧ st.params.length ≤ 253 ∧ b = encV1 st.id st.error st.params := by
  obtain ⟨x0, x1, x2, x3, x4, ps, c, rfl⟩ := bytes_shape_v1 b (decV1_ok_length h)
  rw [decV1_cons] at h
  split at h; · cases h
  next hmark =>
  split at h; · cases h
  split at h; · cases h
  next hlen =>
  split at h; · cases h
  next hcheck =>
  cases h
  have hx3 : x3 = BitVec.ofNat 8 (ps.length + 2) := BitVec.eq_of_toNat_eq (by rw [BitVec.toNat_ofNat]; omega)
  obtain ⟨rfl, rfl⟩ : x0 = 0xFF ∧ x1 = 0xFF := by simpa using hmark
  refine ⟨rfl, show ps.length ≤ 253 by omega, ?_⟩
  rw [encV1_cons, ← hx3, not_not.1 hcheck]

/-! ### Decoding v2 frames -/

/-- The checks of `DEC_V2` pass on a frame of the domain, and give the parameters back (`42_codec_v2.md` R88). -/
theorem parseV2_encV2 (span : CrcSpan) {mn : Nat} (id i : Byte) {u : List Byte} (h : (stuff u).length ≤ 65532)
    (hm : mn ≤ (stuff u).length + 3) : parseV2 span mn (encV2 span id i u) = .ok u := by
  have hlen : (word16 (lo8 (BitVec.ofNat 16 ((stuff u).length + 3)))
      (hi8 (BitVec.ofNat 16 ((stuff u).length + 3)))).toNat = (stuff u).length + 3 := by
    rw [word16_lo8_hi8, BitVec.toNat_ofNat]; omega
  rw [encV2, frameV2_cons, parseV2_cons, hlen, if_neg (by simp), if_neg (by omega), if_neg (by omega),
    word16_lo8_hi8, if_neg]
  · exact unstuff_stuff u
  · exact not_not.2 rfl

/-- What the checks of `DEC_V2` pass is the frame of its own ID and INSTR bytes around the stuffed parameters. -/
theorem parseV2_ok {span : CrcSpan} {mn : Nat} (hm : 3 ≤ mn) {b u : List Byte} (h : parseV2 span mn b = .ok u) :
    (stuff u).length ≤ 65532 ∧ b = encV2 span (byteAt b 4) (byteAt b 7) u := by
  obtain ⟨x0, x1, x2, x3, x4, x5, x6, x7, r, c, d, rfl⟩ := bytes_shape_v2 b (parseV2_ok_length hm h)
  rw [parseV2_cons] at h
  split at h; · cases h
  next hmark =>
  split at h; · cases h
  split at h; · cases h
  next hlen =>
  split at h; · cases h
  next hcheck =>
  obtain rfl : stuff u = r := stuff_of_unstuff h
  obtain ⟨rfl, rfl, rfl, rfl⟩ : x0 = 0xFF ∧ x1 = 0xFF ∧ x2 = 0xFD ∧ x3 = 0 := by simpa using hmark
  have hlt := (word16 x5 x6).isLt
  have hx : BitVec.ofNat 16 ((stuff u).length + 3) = word16 x5 x6 :=
    BitVec.eq_of_toNat_eq (by rw [BitVec.toNat_ofNat]; omega)
  have hbody : bodyV2 x4 x7 (stuff u) = x4 :: x5 :: x6 :: x7 :: stuff u := by
    rw [bodyV2, hx, lo8_word16, hi8_word16]; rfl
  have hcrc : crcV2 (crcCovered span markV2 (bodyV2 x4 x7 (stuff u))) = word16 c d := by
    rw [hbody]; exact not_not.1 hcheck
  refine ⟨by omega, ?_⟩
  show _ = frameV2 span x4 x7 (stuff u)
  rw [frameV2_cons, hcrc, hx, lo8_word16, hi8_word16, lo8_word16, hi8_word16]

/-- `DEC_V2` reads a status frame of the domain back, with any INSTR byte (R88). -/
theorem decV2_encV2 (span : CrcSpan) (id i e : Byte) {ps : List Byte} (h : (stuff (e :: ps)).length ≤ 65532) :
    decV2 span (encV2 span id i (e :: ps)) = .ok { id := id, instr := some i, error := e, params := ps } := by
  have hmin : minStatusLen .v2 ≤ (stuff (e :: ps)).length + 3 := by
    have hpos := stuff_cons_length_pos e ps
    show 4 ≤ _
    omega
  unfold decV2
  rw [parseV2_encV2 span id i h hmin, encV2, frameV2_cons]
  rfl

/-- What `DEC_V2` accepts is the frame of the fields it returns. -/
theorem decV2_ok {span : CrcSpan} {b : List Byte} {st : StatusPacket} (h : decV2 span b = .ok st) :
    ∃ i, st.instr = some i ∧ (stuff (st.error :: st.params)).length ≤ 65532 ∧
      b = encV2 span st.id i (st.error :: st.params) := by
  unfold decV2 at h
  split at h
  · cases h
  · cases h
  · next e ps hp =>
    cases h
    exact ⟨byteAt b 7, rfl, parseV2_ok (by decide) hp⟩

end Sys2Proof.Machine
end

section
/-!
PROOF. O14 to O17: the little-endian fields and the names of instruction frames (`rowV1`, `rowV2`) are undone by the encoder, and
so the decoder and the encoder by each other.
-/
namespace Sys2Proof.Machine

/-! ### Fields -/

/-- The join undoes the cut of a value that fits (`43_register_descriptor.md` R94). -/
theorem leValue_leBytes {v : Word32} {n : Nat} (h : v.toNat < 2 ^ (8 * n)) : leValue (leBytes v n) = v := by
  induction n generalizing v with
  | zero => exact BitVec.eq_of_toNat_eq (Nat.lt_one_iff.1 h).symm
  | succ n ih =>
    have hshift : (v >>> 8).toNat < 2 ^ (8 * n) := by
      rw [BitVec.toNat_ushiftRight, Nat.shiftRight_eq_div_pow]
      exact Nat.div_lt_of_lt_mul (by rwa [← pow_add, Nat.add_comm])
    rw [leBytes, leValue, ih hshift]
    ext i hi
    by_cases h8 : i < 8
    · simp [h8, BitVec.getLsbD_eq_getElem hi]
    · simp [h8, show 8 + (i - 8) = i by omega, hi]

theorem leValue_lt {s : List Byte} (h : s.length ≤ 4) : (leValue s).toNat < 2 ^ (8 * s.length) := by
  induction s with
  | nil => decide
  | cons b s ih =>
    have hs : s.length ≤ 3 := Nat.le_of_succ_le_succ h
    have hlt := ih (by omega)
    have h24 : (leValue s).toNat < 2 ^ 24 := hlt.trans_le (Nat.pow_le_pow_right (by decide) (by omega))
    have hb := b.isLt
    rw [leValue, leValue_cons_toNat b _ h24, List.length_cons, Nat.mul_succ, Nat.pow_add]
    omega

/-- The cut undoes the join of at most four bytes (R93). -/
theorem leBytes_leValue {s : List Byte} (h : s.length ≤ 4) : leBytes (leValue s) s.length = s := by
  induction s with
  | nil => rfl
  | cons b s ih =>
    have hs : s.length ≤ 3 := Nat.le_of_succ_le_succ h
    have h24 : (leValue s).toNat < 2 ^ 24 :=
      (leValue_lt (by omega)).trans_le (Nat.pow_le_pow_right (by decide) (by omega))
    have hv := leValue_cons_toNat b _ h24
    have hb := b.isLt
    have hlow : (b.setWidth 32 ||| leValue s <<< 8).setWidth 8 = b :=
      BitVec.eq_of_toNat_eq (by rw [BitVec.toNat_setWidth, hv]; omega)
    have hhigh : (b.setWidth 32 ||| leValue s <<< 8) >>> 8 = leValue s :=
      BitVec.eq_of_toNat_eq (by rw [BitVec.toNat_ushiftRight, Nat.shiftRight_eq_div_pow, hv]; omega)
    rw [leValue, List.length_cons, leBytes, hlow, hhigh, ih (by omega)]

/-- A value register holds a narrower value as it is. -/
theorem toNat_setWidth_lt {m n : Nat} (h : m ≤ n) (x : BitVec m) : (x.setWidth n).toNat < 2 ^ m := by
  rw [BitVec.toNat_setWidth_of_le h]; exact x.isLt

/-- A value that fits the narrower width is not changed by passing through it. -/
theorem setWidth_setWidth_of_lt {m n : Nat} {v : BitVec n} (h : v.toNat < 2 ^ m) : (v.setWidth m).setWidth n = v :=
  BitVec.eq_of_toNat_eq (by rw [BitVec.toNat_setWidth, BitVec.toNat_setWidth, Nat.mod_eq_of_lt h, Nat.mod_eq_of_lt v.isLt])

/-! The value of a write instruction, cut and joined in each of its widths. -/

theorem leBytes_one (x : Byte) : leBytes (x.setWidth 32) 1 = [x] := by simp [leBytes]

theorem leBytes_two (x0 x1 : Byte) : leBytes (((leValue [x0, x1]).setWidth 16).setWidth 32) 2 = [x0, x1] := by
  have hlt : (leValue [x0, x1]).toNat < 2 ^ 16 := leValue_lt (by simp)
  rw [setWidth_setWidth_of_lt hlt]
  exact leBytes_leValue (s := [x0, x1]) (by simp)

theorem leBytes_four (x0 x1 x2 x3 : Byte) : leBytes (leValue [x0, x1, x2, x3]) 4 = [x0, x1, x2, x3] :=
  leBytes_leValue (s := [x0, x1, x2, x3]) (by simp)

theorem leValue_two (x : Word16) : (leValue (leBytes (x.setWidth 32) 2)).setWidth 16 = x := by
  rw [leValue_leBytes (toNat_setWidth_lt (by decide) x)]
  simp

theorem leValue_four (x : Word32) : leValue (leBytes x 4) = x := leValue_leBytes x.isLt

/-! The width byte of a read instruction. -/

theorem widthOfByte_widthByte (w : Width) : widthOfByte (widthByte w) = some w := by cases w <;> rfl

theorem widthByte_of_widthOfByte {b : Byte} {w : Width} (h : widthOfByte b = some w) : widthByte w = b := by
  unfold widthOfByte at h
  split at h
  · next e => cases h; exact e.symm
  · split at h
    · next e => cases h; exact e.symm
    · split at h
      · next e => cases h; exact e.symm
      · cases h

/-! ### The rows of instruction frames -/

/-- A v1 instruction frame is a V1.INSTRUCTION, or has a row that sends it. -/
theorem rowV1_cases (span : CrcSpan) (id op : Byte) (ps : List Byte) :
    rowV1 id op ps = .v1Instruction id op ps ∨
    ((rowV1 id op ps).sends = true ∧ (rowV1 id op ps).version = some .v1 ∧
      encode span (rowV1 id op ps) = .frame .tx (encV1 id op ps)) := by
  generalize hi : rowV1 id op ps = i
  unfold rowV1 at hi
  split at hi
  case isTrue hop =>
    subst hop
    split at hi
    · next a b =>
      split at hi <;> subst hi
      · next w hw => exact .inr ⟨rfl, rfl, by rw [encode, readRowV1, widthByte_of_widthOfByte hw]⟩
      · exact .inl rfl
    · exact .inl hi.symm
  case isFalse =>
    split at hi
    case isTrue hop =>
      subst hop
      split at hi <;> subst hi
      · next a x0 => exact .inr ⟨rfl, rfl, by rw [encode, writeRowV1, leBytes_one]⟩
      · next a x0 x1 => exact .inr ⟨rfl, rfl, by rw [encode, writeRowV1, leBytes_two]⟩
      · next a x0 x1 x2 x3 => exact .inr ⟨rfl, rfl, by rw [encode, writeRowV1, leBytes_four]⟩
      · exact .inl rfl
    case isFalse => exact .inl hi.symm

/-- A v2 instruction frame is a V2.INSTRUCTION, or has a row that sends it. -/
theorem rowV2_cases (span : CrcSpan) (id op : Byte) (ps : List Byte) :
    rowV2 id op ps = .v2Instruction id op ps ∨
    ((rowV2 id op ps).sends = true ∧ (rowV2 id op ps).version = some .v2 ∧
      encode span (rowV2 id op ps) = .frame .tx (encV2 span id op ps)) := by
  generalize hi : rowV2 id op ps = i
  unfold rowV2 at hi
  split at hi
  case isTrue hop =>
    subst hop
    split at hi
    · next a0 a1 b z =>
      split at hi
      · next w hw =>
        split at hi <;> subst hi
        · next hz =>
          exact .inr ⟨rfl, rfl, by rw [encode, readRowV2, lo8_word16, hi8_word16, widthByte_of_widthOfByte hw, hz]⟩
        · exact .inl rfl
      · exact .inl hi.symm
    · exact .inl hi.symm
  case isFalse =>
    split at hi
    case isTrue hop =>
      subst hop
      split at hi <;> subst hi
      · next a0 a1 x0 => exact .inr ⟨rfl, rfl, by rw [encode, writeRowV2, lo8_word16, hi8_word16, leBytes_one]⟩
      · next a0 a1 x0 x1 => exact .inr ⟨rfl, rfl, by rw [encode, writeRowV2, lo8_word16, hi8_word16, leBytes_two]⟩
      · next a0 a1 x0 x1 x2 x3 => exact .inr ⟨rfl, rfl, by rw [encode, writeRowV2, lo8_word16, hi8_word16, leBytes_four]⟩
      · exact .inl rfl
    case isFalse => exact .inl hi.symm

/-- A READ or WRITE row has no ill-formed operand. -/
theorem wf_of_sends {i : Instr} (h : i.sends = true) : i.WellFormed := by
  cases i with
  | readV1 | readV2 | writeV1W1 | writeV1W2 | writeV1W4 | writeV2W1 | writeV2W2 | writeV2W4 => rfl
  | encode | decode | readData | writeData | v1Instruction | v1Status | v2Instruction | v2Status => cases h

/-! ### The decoder on the encoder's frames -/

theorem decode_encV1 (span : CrcSpan) (id op : Byte) {ps : List Byte} (h : ps.length ≤ 253) :
    decode .v1 span (.frame .tx (encV1 id op ps)) = .ok (rowV1 id op ps) := by
  simp only [decode, decodeFrame, decodeTxV1, decV1_encV1 id op h, Except.map]

theorem decode_encV2 (span : CrcSpan) (id op : Byte) {ps : List Byte} (h : (stuff ps).length ≤ 65532) :
    decode .v2 span (.frame .tx (encV2 span id op ps)) = .ok (rowV2 id op ps) := by
  have hp : parseV2 span (minInstrLen .v2) (encV2 span id op ps) = .ok ps := parseV2_encV2 span id op h (Nat.le_add_left _ _)
  have h4 : byteAt (encV2 span id op ps) 4 = id := by rw [encV2, frameV2_cons]; rfl
  have h7 : byteAt (encV2 span id op ps) 7 = op := by rw [encV2, frameV2_cons]; rfl
  simp only [decode, decodeFrame, decodeTxV2, hp, h4, h7, Except.map]

/-- A v2 instruction of so few parameters is in the encoder's domain however much of it is stuffed. -/
theorem decode_encV2_of_few (span : CrcSpan) (id op : Byte) {ps : List Byte} (h : ps.length ≤ 8) :
    decode .v2 span (.frame .tx (encV2 span id op ps)) = .ok (rowV2 id op ps) :=
  decode_encV2 span id op (by have := stuff_length_le ps; omega)

theorem decode_encode_of_command {i : Instr} (hv : i.version = none) (v : Version) (span : CrcSpan) :
    decode v span (encode span i) = .ok i := by
  cases i with
  | encode | decode | readData | writeData => rfl
  | v1Instruction | v1Status | v2Instruction | v2Status => cases hv
  | readV1 | readV2 | writeV1W1 | writeV1W2 | writeV1W4 | writeV2W1 | writeV2W2 | writeV2W4 => cases hv

theorem decode_encode_of_v1 {i : Instr} (hwf : i.WellFormed) (hv : i.version = some .v1) (span : CrcSpan) :
    decode .v1 span (encode span i) = .ok i := by
  cases i with
  | v1Instruction id op ps =>
    obtain ⟨hd, hrow⟩ := Bool.and_eq_true_iff.1 hwf
    rw [encode, decode_encV1 span id op ((inDomainV1_iff ps).1 hd), eq_of_beq hrow]
  | v1Status id e ps =>
    simp only [encode, encsV1, decode, decodeFrame, decFrame, decV1_encV1 id e ((inDomainV1_iff ps).1 hwf), Except.map,
      statusRow]
  | readV1 id a w =>
    rw [encode, decode_encV1 span id opRead (by simp [readRowV1])]
    simp [rowV1, readRowV1, widthOfByte_widthByte]
  | writeV1W1 id a x =>
    rw [encode, decode_encV1 span id opWrite (by simp [writeRowV1]), writeRowV1, leBytes_one]
    rfl
  | writeV1W2 id a x =>
    rw [encode, decode_encV1 span id opWrite (by simp [writeRowV1])]
    exact congrArg (fun y => Except.ok (Instr.writeV1W2 id a y)) (leValue_two x)
  | writeV1W4 id a x =>
    rw [encode, decode_encV1 span id opWrite (by simp [writeRowV1])]
    exact congrArg (fun y => Except.ok (Instr.writeV1W4 id a y)) (leValue_four x)
  | encode | decode | readData | writeData => cases hv
  | v2Instruction | v2Status | readV2 | writeV2W1 | writeV2W2 | writeV2W4 => cases hv

theorem decode_encode_of_v2 {i : Instr} (hwf : i.WellFormed) (hv : i.version = some .v2) (span : CrcSpan) :
    decode .v2 span (encode span i) = .ok i := by
  cases i with
  | v2Instruction id op ps =>
    obtain ⟨hd, hrow⟩ := Bool.and_eq_true_iff.1 hwf
    rw [encode, decode_encV2 span id op ((inDomainV2_iff ps).1 hd), eq_of_beq hrow]
  | v2Status id instr e ps =>
    simp only [encode, decode, decodeFrame, decFrame, decV2_encV2 span id instr e ((inDomainV2_iff _).1 hwf), Except.map,
      statusRow]
  | readV2 id a w =>
    rw [encode, decode_encV2_of_few span id opRead (by simp [readRowV2])]
    simp [rowV2, readRowV2, widthOfByte_widthByte, word16_lo8_hi8]
  | writeV2W1 id a x =>
    rw [encode, decode_encV2_of_few span id opWrite (by simp [writeRowV2]), writeRowV2, leBytes_one]
    exact congrArg (fun y => Except.ok (Instr.writeV2W1 id y x)) (word16_lo8_hi8 a)
  | writeV2W2 id a x =>
    rw [encode, decode_encV2_of_few span id opWrite (by simp [writeRowV2])]
    exact congrArg₂ (fun y z => Except.ok (Instr.writeV2W2 id y z)) (word16_lo8_hi8 a) (leValue_two x)
  | writeV2W4 id a x =>
    rw [encode, decode_encV2_of_few span id opWrite (by simp [writeRowV2])]
    exact congrArg₂ (fun y z => Except.ok (Instr.writeV2W4 id y z)) (word16_lo8_hi8 a) (leValue_four x)
  | encode | decode | readData | writeData => cases hv
  | v1Instruction | v1Status | readV1 | writeV1W1 | writeV1W2 | writeV1W4 => cases hv

/-- Settles O16: the decoder gives back the fields of a frame, and they its row. -/
theorem decodeOfEncodeIsTheInstruction : Obligations.DecodeOfEncodeIsTheInstruction := by
  intro v span i hwf hb
  rcases hb with hv | hv
  · exact decode_encode_of_command hv v span
  · cases v with
    | v1 => exact decode_encode_of_v1 hwf hv span
    | v2 => exact decode_encode_of_v2 hwf hv span

/-! ### The encoder on what decodes -/

theorem map_eq_ok {ε α β : Type} {f : α → β} {x : Except ε α} {y : β} (h : x.map f = .ok y) : ∃ a, x = .ok a ∧ f a = y := by
  cases x with
  | error e => cases h
  | ok a => exact ⟨a, rfl, Except.ok.inj h⟩

/-- What decodes from `ws` under version `v` is the meaning of `ws` alone. -/
structure Spells (v : Version) (span : CrcSpan) (ws : Words) (i : Instr) : Prop where
  wf      : i.WellFormed
  belongs : i.BelongsTo v
  encode  : encode span i = ws

theorem rowV1_spells (span : CrcSpan) (id op : Byte) {ps : List Byte} (h : ps.length ≤ 253) :
    Spells .v1 span (.frame .tx (encV1 id op ps)) (rowV1 id op ps) := by
  rcases rowV1_cases span id op ps with e | ⟨hs, hv, he⟩
  · have hwf : (Instr.v1Instruction id op ps).WellFormed :=
      Bool.and_eq_true_iff.2 ⟨(inDomainV1_iff ps).2 h, beq_iff_eq.2 e⟩
    rw [e]
    exact ⟨hwf, .inr rfl, rfl⟩
  · exact ⟨wf_of_sends hs, .inr hv, he⟩

theorem rowV2_spells (span : CrcSpan) (id op : Byte) {ps : List Byte} (h : (stuff ps).length ≤ 65532) :
    Spells .v2 span (.frame .tx (encV2 span id op ps)) (rowV2 id op ps) := by
  rcases rowV2_cases span id op ps with e | ⟨hs, hv, he⟩
  · have hwf : (Instr.v2Instruction id op ps).WellFormed :=
      Bool.and_eq_true_iff.2 ⟨(inDomainV2_iff ps).2 h, beq_iff_eq.2 e⟩
    rw [e]
    exact ⟨hwf, .inr rfl, rfl⟩
  · exact ⟨wf_of_sends hs, .inr hv, he⟩

theorem statusRow_spells {v : Version} {span : CrcSpan} {b : List Byte} {st : StatusPacket}
    (h : decFrame v span b = .ok st) : Spells v span (.frame .rx b) (statusRow st) := by
  obtain ⟨id, instr, error, params⟩ := st
  cases v with
  | v1 =>
    obtain ⟨rfl, hl, rfl⟩ := decV1_ok h
    exact ⟨(inDomainV1_iff params).2 hl, .inr rfl, rfl⟩
  | v2 =>
    obtain ⟨i, rfl, hl, rfl⟩ := decV2_ok h
    exact ⟨(inDomainV2_iff (error :: params)).2 hl, .inr rfl, rfl⟩

theorem decodeFrame_spells {v : Version} {span : CrcSpan} {side : Side} {b : List Byte} {i : Instr}
    (h : decodeFrame v span side b = .ok i) : Spells v span (.frame side b) i := by
  cases side with
  | tx =>
    cases v with
    | v1 =>
      obtain ⟨st, hst, rfl⟩ := map_eq_ok h
      obtain ⟨-, hl, rfl⟩ := decV1_ok hst
      exact rowV1_spells span st.id st.error hl
    | v2 =>
      obtain ⟨ps, hps, rfl⟩ := map_eq_ok h
      obtain ⟨hl, hb⟩ := parseV2_ok (by decide) hps
      rw [congrArg (Words.frame .tx) hb]
      exact rowV2_spells span (byteAt b 4) (byteAt b 7) hl
  | rx =>
    obtain ⟨st, hst, rfl⟩ := map_eq_ok h
    exact statusRow_spells hst

theorem decodeCommand_cases {code : BitVec 3} {i : Instr} (h : decodeCommand code = .ok i) :
    (code = 1 ∧ i = .encode) ∨ (code = 2 ∧ i = .decode) ∨ (code = 3 ∧ i = .readData) ∨ (code = 4 ∧ i = .writeData) := by
  unfold decodeCommand at h
  split at h
  · next e => exact .inl ⟨e, (Except.ok.inj h).symm⟩
  · split at h
    · next e => exact .inr (.inl ⟨e, (Except.ok.inj h).symm⟩)
    · split at h
      · next e => exact .inr (.inr (.inl ⟨e, (Except.ok.inj h).symm⟩))
      · split at h
        · next e => exact .inr (.inr (.inr ⟨e, (Except.ok.inj h).symm⟩))
        · cases h

theorem decodeCommand_spells (v : Version) (span : CrcSpan) {code : BitVec 3} {i : Instr} (h : decodeCommand code = .ok i) :
    Spells v span (.command code) i := by
  obtain ⟨rfl, rfl⟩ | ⟨rfl, rfl⟩ | ⟨rfl, rfl⟩ | ⟨rfl, rfl⟩ := decodeCommand_cases h
  all_goals exact ⟨rfl, .inl rfl, rfl⟩

/-- Settles O17: on either side what decodes is the frame of its own fields, and a code is its command's. -/
theorem encodeOfDecodeIsTheWords : Obligations.EncodeOfDecodeIsTheWords := by
  intro v span ws i h
  suffices hs : Spells v span ws i from ⟨hs.wf, hs.belongs, hs.encode⟩
  cases ws with
  | command code => exact decodeCommand_spells v span h
  | frame side b =>
    cases hf : decodeFrame v span side b with
    | ok i' =>
      rw [decode, hf] at h
      cases h
      exact decodeFrame_spells hf
    | error c =>
      rw [decode, hf] at h
      cases h

/-! ### Written-out words -/

/-- Settles O14, by the table of codes. -/
theorem commandCodesNameTheCommands : Obligations.CommandCodesNameTheCommands :=
  fun _ _ => ⟨rfl, rfl, rfl, rfl, rfl, rfl, rfl, rfl⟩

/-- The words of a well-formed instruction, written out, decode to it. -/
theorem decode_of_encode_eq {v : Version} {span : CrcSpan} {i : Instr} {ws : Words} (hwf : i.WellFormed)
    (hb : i.BelongsTo v) (h : encode span i = ws) : decode v span ws = .ok i :=
  h ▸ decodeOfEncodeIsTheInstruction v span i hwf hb

/-- Settles O15: each frame is the encoding of the instruction it stands for. -/
theorem writtenOutFramesDecode : Obligations.WrittenOutFramesDecode := by
  refine ⟨?read, ?statusV1, ?write, ?instruction, ?statusV2⟩
  case read => exact decode_of_encode_eq rfl (.inr rfl) (by decide)
  case statusV1 => exact decode_of_encode_eq rfl (.inr rfl) (by decide)
  case write => exact decode_of_encode_eq rfl (.inr rfl) (by decide)
  case instruction => exact decode_of_encode_eq (by decide) (.inr rfl) (by decide +kernel)
  case statusV2 => exact decode_of_encode_eq rfl (.inr rfl) (by decide +kernel)

end Sys2Proof.Machine
end

section
/-!
PROOF. O36: bytes on the receive side that are no frame run DECODE, which completes with the decoder's cause.
-/
namespace Sys2Proof.Machine

theorem ready_of_rest {s : State} (h : s.Inv) (hp : s.seq.phase = .rest) : s.ready = true := by
  have hbusy : s.flags.busy = false := by
    rw [← Bool.not_eq_true, h.busyIff]
    exact not_not.2 hp
  have htxn : phaseTxn .rest s.seq.txn := hp ▸ h.txnPhase
  exact (ready_iff s).2 ⟨hbusy, htxn⟩

theorem runWords_of_received {b : List Byte} {s : State} {c : Cause}
    (h : decFrame s.cfg.version s.cfg.crcSpan b = .error c) : runWords (.frame .rx b) s = decodeCall b s := by
  simp only [runWords, decode, decodeFrame, h, Except.map]

theorem decodeCall_transport {b : List Byte} {s t : State} (h : decodeCall b s = .next t) : t.transport = s.transport := by
  unfold decodeCall at h
  split at h
  · next hr =>
    have hx := h.symm.trans (exec_decode_of_ready (s := s.storeRx b) hr)
    cases hx
    rfl
  · cases h

/-- Bytes handed over on the receive side that the decoder rejects complete with its cause, and no request is made. -/
theorem runWords_received_of_error {b : List Byte} {s : State} {c : Cause} (hw : Memory.wf s.bufs.rx = true)
    (hr : s.ready = true) (hd : decFrame s.cfg.version s.cfg.crcSpan b = .error c) :
    ∃ t, runWords (.frame .rx b) s = .next t ∧ t.res.kind = .frameError ∧ t.res.cause = c ∧ t.transport = s.transport := by
  obtain ⟨t, ht, hkind, hcause⟩ := decodeCall_of_error hw hr hd
  exact ⟨t, (runWords_of_received hd).trans ht, hkind, hcause, decodeCall_transport ht⟩

/-- Settles O36: the step is the script's event, in a block that is idle. -/
theorem illegalReceivedBytesGiveFrameError : Obligations.IllegalReceivedBytesGiveFrameError := by
  intro s b rest c hinv hp hs hd
  have hr : s.ready = true := ready_of_rest hinv hp
  rw [step_event hp hs]
  exact runWords_received_of_error hinv.rxWf hr hd

end Sys2Proof.Machine
end

section
/-!
PROOF. O58: a READ or WRITE row is READ_DATA or WRITE_DATA on operands whose request is the row's own frame (`SendsItself`).
-/
namespace Sys2Proof.Machine

/-! ### What a transaction keeps -/

/-- A transaction, whatever the transport answers, leaves `CFG`, the operands and the host's script alone. -/
theorem transact_keeps (k : Transaction) (s : State) :
    (transact k s).cfg = s.cfg ∧ (transact k s).ops = s.ops ∧ (transact k s).world = s.world := by
  rcases transact_cases k s with ⟨-, e⟩ | ⟨-, -, e⟩ | ⟨-, -, e⟩
  · rw [e]; exact ⟨rfl, rfl, rfl⟩
  · rw [e]; exact ⟨rfl, rfl, rfl⟩
  · obtain ⟨reads, hr, -, -, ea⟩ := awaitResponse_eq k ((s.txWrite s.txFrame).2.setTxn .sent)
    rw [e, ea]
    exact ⟨hr.cfg, hr.ops, hr.world⟩

theorem started_ops (s : State) (k : Transaction) : (s.started k).ops = { s.ops with cmd := k.code } := by
  cases k <;> rfl

theorem started_world (s : State) (k : Transaction) : (s.started k).world = s.world := by
  cases k <;> rfl

/-! ### The calls of the rows -/

theorem transacts_loadRead {s : State} (hr : s.ready = true) (id : Byte) {addr : Word16} (w : Width)
    (ha : addressFits s.cfg.version (s.ops.loadRead id addr w) = true) :
    Transacts .read (s.withOps (s.ops.loadRead id addr w)) :=
  ⟨hr, by cases w <;> rfl, ha⟩

theorem transacts_loadWrite {s : State} (hr : s.ready = true) (id : Byte) {addr : Word16} {w : Width} {value : Word32}
    (ha : addressFits s.cfg.version (s.ops.loadWrite id addr w value) = true) (hv : value.toNat < 2 ^ (8 * widthBytes w)) :
    Transacts .write (s.withOps (s.ops.loadWrite id addr w value)) := by
  have hfits : decide (value.toNat < 2 ^ (8 * (widthCode w).toNat)) = true := by
    cases w <;> exact decide_eq_true hv
  have hwidth : widthCheckRead (s.ops.loadWrite id addr w value) = true := by cases w <;> rfl
  exact ⟨hr, Bool.and_eq_true_iff.2 ⟨hwidth, hfits⟩, ha⟩

/-- A v1 row's address is one byte. -/
theorem addressFits_byte (v : Version) {o : Operands} {a : Byte} (h : o.addr = a.setWidth 16) : addressFits v o = true := by
  cases v with
  | v1 =>
    rw [addressFits, h]
    exact decide_eq_true (toNat_setWidth_lt (by decide) a)
  | v2 => rfl

theorem addressFits_v2 {v : Version} (h : v = .v2) (o : Operands) : addressFits v o = true := by rw [h]; rfl

/-- The row `i` runs in `s` as the transaction `k` on operands `o`, whose request is the row's own frame. -/
structure SendsItself (i : Instr) (s : State) (k : Transaction) (o : Operands) : Prop where
  exec_eq   : exec i s = exec k.instr (s.withOps o)
  transacts : Transacts k (s.withOps o)
  frame     : requestFrame k (s.withOps o) = wordsBytes (encode s.cfg.crcSpan i)
  opcode    : o.opcode = s.ops.opcode
  pbuf      : o.pbuf = s.ops.pbuf
  plen      : o.plen = s.ops.plen

theorem readParams_v1 (o : Operands) (id a : Byte) (w : Width) :
    readParams .v1 (o.loadRead id (a.setWidth 16) w) = readRowV1 a w := by
  have ha : lo8 (a.setWidth 16) = a := by simp [lo8]
  cases w <;> exact congrArg (· :: [_]) ha

theorem readParams_v2 (o : Operands) (id : Byte) (a : Word16) (w : Width) :
    readParams .v2 (o.loadRead id a w) = readRowV2 a w := by
  cases w <;> rfl

theorem writeParams_v1 (o : Operands) (id a : Byte) (w : Width) (x : Word32) :
    writeParams .v1 (o.loadWrite id (a.setWidth 16) w x) = writeRowV1 a x (widthBytes w) := by
  have ha : lo8 (a.setWidth 16) = a := by simp [lo8]
  cases w <;> exact congrArg (· :: leBytes x _) ha

theorem writeParams_v2 (o : Operands) (id : Byte) (a : Word16) (w : Width) (x : Word32) :
    writeParams .v2 (o.loadWrite id a w x) = writeRowV2 a x (widthBytes w) := by
  cases w <;> rfl

section Rows

variable {s : State} {i : Instr} {id : Byte} {w : Width} {x : Word32}

theorem readV1_sendsItself (hr : s.ready = true) (hv : s.cfg.version = .v1) (id a : Byte) (w : Width) :
    SendsItself (.readV1 id a w) s .read (s.ops.loadRead id (a.setWidth 16) w) where
  exec_eq := onlyIn_of hr hv _
  transacts := transacts_loadRead hr id w (addressFits_byte _ rfl)
  frame := by rw [encode, ← readParams_v1 s.ops id a w, requestFrame, withOps_cfg, requestParams, withOps_cfg, hv]; rfl
  opcode := rfl
  pbuf := rfl
  plen := rfl

theorem readV2_sendsItself (hr : s.ready = true) (hv : s.cfg.version = .v2) (id : Byte) (a : Word16) (w : Width) :
    SendsItself (.readV2 id a w) s .read (s.ops.loadRead id a w) where
  exec_eq := onlyIn_of hr hv _
  transacts := transacts_loadRead hr id w (addressFits_v2 hv _)
  frame := by rw [encode, ← readParams_v2 s.ops id a w, requestFrame, withOps_cfg, requestParams, withOps_cfg, hv]; rfl
  opcode := rfl
  pbuf := rfl
  plen := rfl

/-- A v1 row that is the call `write_data`, of any width. -/
theorem writeCall_v1_sendsItself {a : Byte} (hr : s.ready = true) (hv : s.cfg.version = .v1)
    (hx : x.toNat < 2 ^ (8 * widthBytes w)) (he : exec i s = writeCall .v1 id (a.setWidth 16) w x s)
    (hf : wordsBytes (encode s.cfg.crcSpan i) = encV1 id opWrite (writeRowV1 a x (widthBytes w))) :
    SendsItself i s .write (s.ops.loadWrite id (a.setWidth 16) w x) where
  exec_eq := he.trans (onlyIn_of hr hv _)
  transacts := transacts_loadWrite hr id (addressFits_byte _ rfl) hx
  frame := by rw [hf, ← writeParams_v1 s.ops id a w x, requestFrame, withOps_cfg, requestParams, withOps_cfg, hv]; rfl
  opcode := rfl
  pbuf := rfl
  plen := rfl

/-- A v2 row that is the call `write_data`, of any width. -/
theorem writeCall_v2_sendsItself {a : Word16} (hr : s.ready = true) (hv : s.cfg.version = .v2)
    (hx : x.toNat < 2 ^ (8 * widthBytes w)) (he : exec i s = writeCall .v2 id a w x s)
    (hf : wordsBytes (encode s.cfg.crcSpan i) = encV2 s.cfg.crcSpan id opWrite (writeRowV2 a x (widthBytes w))) :
    SendsItself i s .write (s.ops.loadWrite id a w x) where
  exec_eq := he.trans (onlyIn_of hr hv _)
  transacts := transacts_loadWrite hr id (addressFits_v2 hv _) hx
  frame := by rw [hf, ← writeParams_v2 s.ops id a w x, requestFrame, withOps_cfg, requestParams, withOps_cfg, hv]; rfl
  opcode := rfl
  pbuf := rfl
  plen := rfl

/-- Every READ and WRITE row sends its own frame. -/
theorem exists_sendsItself (hr : s.ready = true) (hi : i.sends = true) (hv : i.version = some s.cfg.version) :
    ∃ k o, SendsItself i s k o := by
  cases i with
  | readV1 id a w => exact ⟨_, _, readV1_sendsItself hr (Option.some.inj hv).symm id a w⟩
  | readV2 id a w => exact ⟨_, _, readV2_sendsItself hr (Option.some.inj hv).symm id a w⟩
  | writeV1W1 id a x =>
    exact ⟨_, _, writeCall_v1_sendsItself (w := .w1) hr (Option.some.inj hv).symm (toNat_setWidth_lt (by decide) x) rfl rfl⟩
  | writeV1W2 id a x =>
    exact ⟨_, _, writeCall_v1_sendsItself (w := .w2) hr (Option.some.inj hv).symm (toNat_setWidth_lt (by decide) x) rfl rfl⟩
  | writeV1W4 id a x => exact ⟨_, _, writeCall_v1_sendsItself (w := .w4) hr (Option.some.inj hv).symm x.isLt rfl rfl⟩
  | writeV2W1 id a x =>
    exact ⟨_, _, writeCall_v2_sendsItself (w := .w1) hr (Option.some.inj hv).symm (toNat_setWidth_lt (by decide) x) rfl rfl⟩
  | writeV2W2 id a x =>
    exact ⟨_, _, writeCall_v2_sendsItself (w := .w2) hr (Option.some.inj hv).symm (toNat_setWidth_lt (by decide) x) rfl rfl⟩
  | writeV2W4 id a x => exact ⟨_, _, writeCall_v2_sendsItself (w := .w4) hr (Option.some.inj hv).symm x.isLt rfl rfl⟩
  | encode | decode | readData | writeData | v1Instruction | v1Status | v2Instruction | v2Status => cases hi

end Rows

/-- Settles O58: the row's transaction hands over its frame, and keeps what no transaction changes. -/
theorem readAndWriteRowsSendTheirOwnFrame : Obligations.ReadAndWriteRowsSendTheirOwnFrame := by
  intro s i hinv hr hi hv
  obtain ⟨k, o, hrow⟩ := exists_sendsItself hr hi hv
  obtain ⟨a, reads, h⟩ := transact_writesOnce k ((s.withOps o).started k)
  obtain ⟨hcfg, hops, hworld⟩ := transact_keeps k ((s.withOps o).started k)
  have hframe : ((s.withOps o).started k).txFrame = wordsBytes (encode s.cfg.crcSpan i) :=
    (started_txFrame (s := s.withOps o) hinv.txWf k).trans hrow.frame
  have hstarted : ((s.withOps o).started k).cfg = s.cfg := started_cfg (s.withOps o) k
  rw [started_ops] at hops
  refine ⟨_, a, reads, hrow.exec_eq.trans (exec_of_transacts hrow.transacts), ?log, ?isRead, h.txFrame.trans hframe,
    hcfg.trans hstarted, hworld.trans (started_world (s.withOps o) k), ?opcode, ?pbuf, ?plen⟩
  case log => rw [h.log, started_log, hframe]; rfl
  case isRead => rw [← hstarted]; exact h.isRead
  case opcode => rw [hops]; exact hrow.opcode
  case pbuf => rw [hops]; exact hrow.pbuf
  case plen => rw [hops]; exact hrow.plen

end Sys2Proof.Machine
end

section
/-!
PROOF. The v1 checksum of `40_checksum_crc.md`: one's complement of the byte sum modulo 256 (O1).
-/
namespace Sys2Proof.Machine

/-- The running sum wraps at 256 (R64, R68 (a)). -/
theorem toNat_foldl_add (s : List Byte) (acc : Byte) :
    (s.foldl (· + ·) acc).toNat = (acc.toNat + (s.map BitVec.toNat).sum) % 256 := by
  induction s generalizing acc with
  | nil => exact (Nat.mod_eq_of_lt acc.isLt).symm
  | cons d s ih =>
    rw [List.foldl_cons, ih, BitVec.toNat_add, List.map_cons, List.sum_cons, Nat.mod_add_mod, Nat.add_assoc]

theorem toNat_chkSum (s : List Byte) : (chkSum s).toNat = (s.map BitVec.toNat).sum % 256 := by
  simpa [chkSum] using toNat_foldl_add s 0

theorem toNat_checksumV1 (s : List Byte) : (checksumV1 s).toNat = 0xFF - (s.map BitVec.toNat).sum % 256 := by
  rw [checksumV1, BitVec.toNat_not, toNat_chkSum]

/-- The checksum does not see the order of the bytes. -/
theorem checksumV1_perm {s s' : List Byte} (h : s.Perm s') : checksumV1 s' = checksumV1 s :=
  congrArg (~~~ ·) h.symm.foldl_op_eq

/-- A byte is the checksum exactly when it completes the sum to `0xFF` modulo 256 (R71). -/
theorem checksumV1_eq_iff (s : List Byte) (c : Byte) :
    checksumV1 s = c ↔ ((s ++ [c]).map BitVec.toNat).sum % 256 = 0xFF := by
  have hc := c.isLt
  rw [← BitVec.toNat_inj, toNat_checksumV1, List.map_append, List.sum_append, List.map_singleton, List.sum_singleton]
  omega

/-- Settles O1: the accumulator is the byte sum modulo 256, and addition of bytes commutes. -/
theorem checksumIsComplementOfTruncatedSum : Obligations.ChecksumIsComplementOfTruncatedSum :=
  fun s => ⟨toNat_checksumV1 s, fun _ => checksumV1_perm⟩

end Sys2Proof.Machine
end

section
/-!
PROOF. The v2 CRC of `40_checksum_crc.md`: every step of the register is linear over exclusive-or (O2), so a byte step splits
into the table entry of the high byte and a plain shift of the low byte (O3).
-/
namespace Sys2Proof.Machine

/-! ### Linearity -/

theorem crcShift_xor (x y : Word16) : crcShift (x ^^^ y) = crcShift x ^^^ crcShift y := by
  unfold crcShift
  rw [BitVec.msb_xor, BitVec.shiftLeft_xor_distrib]
  cases x.msb <;> cases y.msb
  case false.false => rfl
  case false.true => exact BitVec.xor_assoc ..
  case true.false => show x <<< 1 ^^^ y <<< 1 ^^^ 0x8005 = x <<< 1 ^^^ 0x8005 ^^^ y <<< 1; ac_rfl
  case true.true =>
    calc x <<< 1 ^^^ y <<< 1
        = x <<< 1 ^^^ y <<< 1 ^^^ (0x8005 ^^^ 0x8005) := by rw [BitVec.xor_self]; exact BitVec.xor_zero.symm
      _ = x <<< 1 ^^^ 0x8005 ^^^ (y <<< 1 ^^^ 0x8005) := by ac_rfl

theorem crcShifts_xor (n : Nat) (x y : Word16) : crcShifts n (x ^^^ y) = crcShifts n x ^^^ crcShifts n y := by
  induction n generalizing x y with
  | zero => rfl
  | succ n ih => rw [crcShifts, crcShift_xor, ih]; rfl

/-- The byte step is linear in the register and the byte together. -/
theorem crcByte_xor (x y : Word16) (d e : Byte) : crcByte (x ^^^ y) (d ^^^ e) = crcByte x d ^^^ crcByte y e := by
  unfold crcByte
  rw [← crcShifts_xor, BitVec.setWidth_xor, BitVec.shiftLeft_xor_distrib]
  congr 1
  ac_rfl

/-- The run over byte sequences of one length is linear in the seed and the bytes together. -/
theorem foldl_crcByte_xor {a b : List Byte} (h : a.length = b.length) (x y : Word16) :
    (List.zipWith (fun d e => d ^^^ e) a b).foldl crcByte (x ^^^ y) = a.foldl crcByte x ^^^ b.foldl crcByte y := by
  induction a generalizing b x y with
  | nil => rw [List.length_eq_zero_iff.1 h.symm]; rfl
  | cons d a ih =>
    obtain ⟨e, b, rfl⟩ := List.exists_cons_of_length_eq_add_one h.symm
    rw [List.zipWith_cons_cons, List.foldl_cons, crcByte_xor, ih (Nat.succ.inj h)]
    rfl

/-- Settles O2: the register is linear, and from the zero seed a zero byte leaves it at zero. -/
theorem crcIsLinearAndIgnoresLeadingZeros : Obligations.CrcIsLinearAndIgnoresLeadingZeros := by
  refine ⟨fun a b h => ?linear, fun s => ?zeros⟩
  case linear => exact foldl_crcByte_xor h 0 0
  case zeros => rfl

/-! ### The table-driven form -/

/-- While no bit of the register reaches the top, the polynomial never enters: `n` shifts are one shift by `n`. -/
theorem crcShifts_of_lt (n : Nat) (x : Word16) (h : x.toNat * 2 ^ n < 2 ^ 16) : crcShifts n x = x <<< n := by
  induction n generalizing x with
  | zero => exact (BitVec.shiftLeft_zero x).symm
  | succ n ih =>
    rw [Nat.pow_succ', ← Nat.mul_assoc] at h
    have hx : x.toNat * 2 < 2 ^ 16 := (Nat.le_mul_of_pos_right _ (Nat.two_pow_pos n)).trans_lt h
    have hmsb : x.msb = false := BitVec.msb_eq_false_iff_two_mul_lt.2 (by omega)
    have hshift : (x <<< 1).toNat = x.toNat * 2 := by
      rw [BitVec.toNat_shiftLeft, Nat.shiftLeft_eq, Nat.mod_eq_of_lt hx]
    have hstep : crcShift x = x <<< 1 := by rw [crcShift, hmsb]; rfl
    rw [crcShifts, hstep, ih _ (by rwa [hshift]), ← BitVec.shiftLeft_add, Nat.add_comm]

/-- The low byte of the register reaches the top in eight shifts, and no further. -/
theorem crcByte_low_zero (lo : Byte) : crcByte (lo.setWidth 16) 0 = lo.setWidth 16 <<< 8 := by
  have hlo := lo.isLt
  have hentry : lo.setWidth 16 ^^^ (0 : Byte).setWidth 16 <<< 8 = lo.setWidth 16 := BitVec.xor_zero
  rw [crcByte, hentry]
  exact crcShifts_of_lt 8 _ (by rw [BitVec.toNat_setWidth]; omega)

/-- The high byte of the register meets the entering byte. -/
theorem crcByte_high (hi d : Byte) : crcByte (hi.setWidth 16 <<< 8) d = crcV2 [hi ^^^ d] := by
  have hseed : crcV2 [hi ^^^ d] = crcShifts 8 ((hi ^^^ d).setWidth 16 <<< 8) := congrArg (crcShifts 8) BitVec.zero_xor
  rw [hseed, BitVec.setWidth_xor, BitVec.shiftLeft_xor_distrib]
  rfl

theorem word16_eq_xor (lo hi : Byte) : word16 lo hi = lo.setWidth 16 ^^^ hi.setWidth 16 <<< 8 := by
  unfold word16
  ext i
  by_cases h : i < 8
  · simp [h]
  · simp [h, BitVec.getLsbD_of_ge lo i (by omega)]

theorem lo8_shiftLeft (v : Word16) : (lo8 v).setWidth 16 <<< 8 = v <<< 8 := by
  unfold lo8
  ext i hi
  by_cases h : i < 8
  · simp [h]
  · simp [h, show i - 8 < 8 by omega, BitVec.getLsbD_eq_getElem (show i - 8 < 16 by omega)]

/-- One byte step is the table entry of the high byte and the entering byte, over the low byte moved up (R69). -/
theorem crcByte_eq_crcTableStep (crc : Word16) (d : Byte) : crcByte crc d = crcTableStep crc d :=
  calc crcByte crc d
      = crcByte ((lo8 crc).setWidth 16 ^^^ (hi8 crc).setWidth 16 <<< 8) (0 ^^^ d) := by
        rw [← word16_eq_xor, word16_lo8_hi8]; exact congrArg (crcByte crc) BitVec.zero_xor.symm
    _ = crcByte ((lo8 crc).setWidth 16) 0 ^^^ crcByte ((hi8 crc).setWidth 16 <<< 8) d := crcByte_xor ..
    _ = crcTableStep crc d := by rw [crcByte_low_zero, lo8_shiftLeft, crcByte_high]; rfl

/-- Settles O3: the two byte steps are one function, and the entries are its values on single bytes. -/
theorem crcTableDrivenFormAgrees : Obligations.CrcTableDrivenFormAgrees := by
  have hstep : crcTableStep = crcByte := funext₂ fun crc d => (crcByte_eq_crcTableStep crc d).symm
  refine ⟨fun s => by rw [hstep]; rfl, ?_⟩
  decide

end Sys2Proof.Machine
end

section
/-!
PROOF. O4: the check bytes of a frame are compared with what the covered bytes give (`40_checksum_crc.md` R71).
-/
namespace Sys2Proof.Machine

theorem drop_eq_byteAt_cons {f : List Byte} {i : Nat} (h : i < f.length) : f.drop i = byteAt f i :: f.drop (i + 1) := by
  rw [List.drop_eq_getElem_cons h, byteAt, List.getD_eq_getElem f 0 h]

theorem drop_length_sub_one {f : List Byte} (h : 1 ≤ f.length) : f.drop (f.length - 1) = [byteAt f (f.length - 1)] := by
  rw [drop_eq_byteAt_cons (by omega), Nat.sub_add_cancel h, List.drop_length]

theorem drop_length_sub_two {f : List Byte} (h : 2 ≤ f.length) :
    f.drop (f.length - 2) = [byteAt f (f.length - 2), byteAt f (f.length - 1)] := by
  rw [drop_eq_byteAt_cons (by omega), show f.length - 2 + 1 = f.length - 1 by omega, drop_length_sub_one (by omega)]

theorem slice_append_drop (f : List Byte) {i j : Nat} (h : i ≤ j) : slice f i j ++ f.drop j = f.drop i := by
  conv_rhs => rw [← List.take_append_drop (j - i) (f.drop i), List.drop_drop, Nat.add_sub_cancel' h]
  rfl

/-- A field is the word of two bytes exactly when these are its low and its high byte. -/
theorem eq_word16_iff (v : Word16) (lo hi : Byte) : v = word16 lo hi ↔ [lo, hi] = crcBytes v := by
  constructor
  · rintro rfl
    rw [crcBytes, lo8_word16, hi8_word16]
  · intro h
    obtain ⟨rfl, rfl⟩ : lo = lo8 v ∧ hi = hi8 v := by simpa [crcBytes] using h
    exact (word16_lo8_hi8 v).symm

/-- Settles O4: the v1 sum runs over the covered bytes and the checksum byte, the v2 CRC is compared byte by byte; the status
frame of ID 1, ERR 0 and one parameter 1 is accepted and leaves a residue. -/
theorem checkBytesVerifyByComparison : Obligations.CheckBytesVerifyByComparison := by
  refine ⟨fun f h => ?checksum, fun span f h => ?crc, encV2 .afterHeader 0x01 statusInstr [0x00, 0x01], ?accepted, ?residue⟩
  case checksum => rw [checksumV1_eq_iff, ← drop_length_sub_one (by omega), slice_append_drop f (by omega)]
  case crc => rw [eq_word16_iff, drop_length_sub_two (by omega)]
  case accepted => rw [decV2_encV2 _ _ _ _ (by decide)]; rfl
  case residue => decide +kernel

end Sys2Proof.Machine
end

section
/-!
PROOF. O7, O9 and O11: `DEC_V1` accepts the frames `ENCS_V1` builds and no others, and one corrupted byte fails the check that
covers its place (`41_codec_v1.md` R78, R79).
-/
namespace Sys2Proof.Machine

/-- Settles O7: `ENCS_V1` and `ENC_V1` build one frame. -/
theorem v1StatusRoundTrip : Obligations.V1StatusRoundTrip := fun id error _ h => decV1_encV1 id error h

/-- Settles O9, by the two directions `decV1_ok` and `decV1_encV1`. -/
theorem v1DecoderAcceptsExactlyEncodedFrames : Obligations.V1DecoderAcceptsExactlyEncodedFrames := by
  refine fun b st => ⟨decV1_ok, fun ⟨hinstr, hlen, hb⟩ => ?_⟩
  rw [hb, encsV1, decV1_encV1 st.id st.error hlen, ← hinstr]

/-! ### The check that fails -/

theorem decV1_eq_header {b : List Byte} (h : byteAt b 0 ≠ 0xFF ∨ byteAt b 1 ≠ 0xFF) : decV1 b = .error .header :=
  if_pos (.inr h)

/-- `DEC_V1` behind the header, the checksum as the sum of R71. -/
theorem decV1_of_mark {b : List Byte} (h0 : byteAt b 0 = 0xFF) (h1 : byteAt b 1 = 0xFF) (hl : 4 ≤ b.length) :
    decV1 b =
      if (byteAt b 3).toNat < 2 ∨ b.length ≠ (byteAt b 3).toNat + 4 then .error .length
      else if ((b.drop 2).map BitVec.toNat).sum % 256 ≠ 0xFF then .error .check
      else .ok { id := byteAt b 2, instr := none, error := byteAt b 4, params := slice b 5 (b.length - 1) } := by
  have hmark : ¬ (b.length < 2 ∨ byteAt b 0 ≠ 0xFF ∨ byteAt b 1 ≠ 0xFF) := by simp [h0, h1]; omega
  have hsum : checksumV1 (slice b 2 (b.length - 1)) = byteAt b (b.length - 1) ↔
      ((b.drop 2).map BitVec.toNat).sum % 256 = 0xFF := by
    rw [checksumV1_eq_iff, ← drop_length_sub_one (by omega), slice_append_drop b (by omega)]
  rw [decV1, if_neg hmark, if_neg (by omega), ite_or]
  simp only [ne_eq, hsum, minStatusLen]

/-- What `DEC_V1` has checked of a frame it accepts. -/
structure PassesV1 (b : List Byte) : Prop where
  mark0 : byteAt b 0 = 0xFF
  mark1 : byteAt b 1 = 0xFF
  minLen : 2 ≤ (byteAt b 3).toNat
  length : b.length = (byteAt b 3).toNat + 4
  sum : ((b.drop 2).map BitVec.toNat).sum % 256 = 0xFF

theorem passesV1_of_ok {b : List Byte} {st : StatusPacket} (h : decV1 b = .ok st) : PassesV1 b := by
  have hl := decV1_ok_length h
  have hmark : ¬ (byteAt b 0 ≠ 0xFF ∨ byteAt b 1 ≠ 0xFF) := fun hm => by rw [decV1_eq_header hm] at h; cases h
  obtain ⟨h0, h1⟩ : byteAt b 0 = 0xFF ∧ byteAt b 1 = 0xFF := by simpa using hmark
  rw [decV1_of_mark h0 h1 (by omega)] at h
  split at h; · cases h
  next hlen =>
  split at h; · cases h
  next hsum =>
  exact ⟨h0, h1, by omega, by omega, not_not.1 hsum⟩

/-! ### One corrupted byte -/

theorem byteAt_set {b : List Byte} {k : Nat} (hk : k < b.length) (y : Byte) (i : Nat) :
    byteAt (b.set k y) i = if k = i then y else byteAt b i := by
  by_cases h : k = i
  · subst h; simp [byteAt, hk]
  · simp [byteAt, h, List.getD_eq_getElem?_getD]

/-- The byte sum modulo 256 sees every change of one byte. -/
theorem sum_set_mod_ne {b : List Byte} {k : Nat} {y : Byte} (hk : k < b.length) (hy : y ≠ b[k]) :
    ((b.set k y).map BitVec.toNat).sum % 256 ≠ (b.map BitVec.toNat).sum % 256 := by
  have hset := (b.map BitVec.toNat).sum_set k y.toNat
  have hself := (b.map BitVec.toNat).sum_set k b[k].toNat
  rw [← List.map_set, List.length_map, if_pos hk] at hset hself
  rw [List.set_getElem_self] at hself
  have hy' : y.toNat ≠ b[k].toNat := fun h => hy (BitVec.eq_of_toNat_eq h)
  have h1 := y.isLt
  have h2 := b[k].isLt
  omega

/-- A frame with one byte replaced fails the check that covers the byte's place. -/
theorem PassesV1.decV1_set {b : List Byte} (h : PassesV1 b) {k : Nat} (hk : k < b.length) {y : Byte} (hy : y ≠ byteAt b k) :
    decV1 (b.set k y) = .error (if k < 2 then .header else if k = 3 then .length else .check) := by
  have hat := byteAt_set hk y
  have hmin := h.minLen
  have hlen := h.length
  by_cases hhead : k < 2
  · rw [if_pos hhead]
    refine decV1_eq_header ?_
    rw [hat, hat]
    obtain rfl | rfl : k = 0 ∨ k = 1 := by omega
    · exact .inl (h.mark0 ▸ hy)
    · exact .inr (h.mark1 ▸ hy)
  · have h0 : byteAt (b.set k y) 0 = 0xFF := by rw [hat, if_neg (by omega), h.mark0]
    have h1 : byteAt (b.set k y) 1 = 0xFF := by rw [hat, if_neg (by omega), h.mark1]
    rw [if_neg hhead, decV1_of_mark h0 h1 (by rw [List.length_set]; omega), List.length_set, hat]
    by_cases hlenByte : k = 3
    · subst hlenByte
      have hne : y.toNat ≠ (byteAt b 3).toNat := fun e => hy (BitVec.eq_of_toNat_eq e)
      rw [if_pos rfl, if_pos rfl, if_pos (.inr (by omega))]
    · have hsum : (((b.set k y).drop 2).map BitVec.toNat).sum % 256 ≠ 0xFF := by
        rw [List.drop_set, if_neg hhead, ← h.sum]
        refine sum_set_mod_ne (by rw [List.length_drop]; omega) ?_
        rw [List.getElem_drop]
        simpa [byteAt, Nat.add_sub_cancel' (Nat.le_of_not_lt hhead), hk] using hy
      rw [if_neg hlenByte, if_neg hlenByte, if_neg (by omega), if_pos hsum]

theorem xor_twoPow_ne (x : Byte) {j : Nat} (hj : j < 8) : x ^^^ BitVec.twoPow 8 j ≠ x := by
  intro h
  have hbit : (x ^^^ BitVec.twoPow 8 j).getLsbD j = !x.getLsbD j := by simp [hj]
  rw [h] at hbit
  exact Bool.not_ne_self _ hbit.symm

/-- Settles O11: a flipped bit is a replaced byte. -/
theorem v1SingleBitFlipIsFrameError : Obligations.V1SingleBitFlipIsFrameError :=
  fun b _ h k _ hk hj => (passesV1_of_ok h).decV1_set hk (xor_twoPow_ne (byteAt b k) hj)

end Sys2Proof.Machine
end

section
/-!
PROOF. O33, O54, O56 and O57: the codec commands, and the frame rows as the calls of those commands (log 12).
-/
namespace Sys2Proof.Machine

/-! ### Outside the domain -/

/-- ENCODE of parameters outside the encoder's domain is refused. -/
theorem exec_encode_of_outside {s : State} (hr : s.ready = true) (hd : ¬ inDomain s.cfg.version s.ops.params = true) :
    exec .encode s = .refused .encodeDomain :=
  (offer_of_ready (s := s.setCmd 1) hr encodeBody).trans (if_neg hd)

/-- Settles O33: the bounds are those of the two domains. -/
theorem encodeOutsideTheDomainIsRefused : Obligations.EncodeOutsideTheDomainIsRefused := by
  refine fun s hr => ⟨fun hv hlen => ?v1, fun hv hlen => ?v2⟩
  case v1 =>
    refine exec_encode_of_outside hr ?_
    rw [hv]
    exact fun hd => absurd ((inDomainV1_iff _).1 hd) (Nat.not_le_of_lt hlen)
  case v2 =>
    refine exec_encode_of_outside hr ?_
    rw [hv]
    exact fun hd => absurd ((inDomainV2_iff _).1 hd) (Nat.not_le_of_lt hlen)

/-! ### The rows as calls -/

theorem encodeCall_of_inDomain {v : Version} {s : State} {ps : List Byte} (hr : s.ready = true) (hv : s.cfg.version = v)
    (hd : inDomain v ps = true) (id op : Byte) :
    encodeCall v id op ps s = exec .encode (s.withOps (s.ops.loadEncode id op ps)) :=
  (onlyIn_of hr hv _).trans (if_pos hd)

theorem decodeCall_of_ready {s : State} (hr : s.ready = true) (b : List Byte) :
    decodeCall b s = exec .decode (s.storeRx b) := if_pos hr

theorem exec_v1Status_of_inDomain {ps : List Byte} (hd : ps.length ≤ 253) (id e : Byte) (s : State) :
    exec (.v1Status id e ps) s = decodeCall (encsV1 id e ps) s := if_pos ((inDomainV1_iff ps).2 hd)

theorem exec_v2Status_of_inDomain {e : Byte} {ps : List Byte} (hd : (stuff (e :: ps)).length ≤ 65532) (id i : Byte)
    (s : State) : exec (.v2Status id i e ps) s = decodeCall (encV2 s.cfg.crcSpan id i (e :: ps)) s :=
  if_pos ((inDomainV2_iff (e :: ps)).2 hd)

/-- Settles O54: each row is its call, and the call loads what the statement writes out. -/
theorem frameRowsAreTheirCalls : Obligations.FrameRowsAreTheirCalls := by
  intro s hr
  refine ⟨?v1Instruction, ?v2Instruction, ?v1Status, ?v2Status, ?readV1, ?readV2, ?writeV1W1, ?writeV1W2, ?writeV1W4,
    ?writeV2W1, ?writeV2W2, ?writeV2W4⟩
  case v1Instruction => exact fun hv id op ps hps => encodeCall_of_inDomain hr hv ((inDomainV1_iff ps).2 hps) id op
  case v2Instruction => exact fun hv id op ps hps => encodeCall_of_inDomain hr hv ((inDomainV2_iff ps).2 hps) id op
  case v1Status => exact fun id e ps hps => (exec_v1Status_of_inDomain hps id e s).trans (decodeCall_of_ready hr _)
  case v2Status => exact fun id i e ps hps => (exec_v2Status_of_inDomain hps id i s).trans (decodeCall_of_ready hr _)
  case readV1 => exact fun hv id a w => onlyIn_of hr hv _
  case readV2 => exact fun hv id a w => onlyIn_of hr hv _
  case writeV1W1 => exact fun hv id a x => onlyIn_of hr hv _
  case writeV1W2 => exact fun hv id a x => onlyIn_of hr hv _
  case writeV1W4 => exact fun hv id a x => onlyIn_of hr hv _
  case writeV2W1 => exact fun hv id a x => onlyIn_of hr hv _
  case writeV2W2 => exact fun hv id a x => onlyIn_of hr hv _
  case writeV2W4 => exact fun hv id a x => onlyIn_of hr hv _

/-! ### The rows that are built -/

/-- The parameters of either domain are counted by `PLEN`. -/
theorem length_lt_of_inDomain {v : Version} {ps : List Byte} (h : inDomain v ps = true) : ps.length < 2 ^ 17 := by
  cases v with
  | v1 =>
    have hps := (inDomainV1_iff ps).1 h
    omega
  | v2 =>
    have hps := (inDomainV2_iff ps).1 h
    have hle := length_le_stuff ps
    omega

/-- ENCODE reads back the parameters that its call loaded. -/
theorem loadEncode_params {o : Operands} (hw : Memory.wf o.pbuf = true) (id op : Byte) {ps : List Byte}
    (hps : ps.length < 2 ^ 17) : (o.loadEncode id op ps).params = ps := by
  have hplen : (o.loadEncode id op ps).plen.toNat = ps.length := Nat.mod_eq_of_lt hps
  rw [Operands.params, hplen]
  exact memRead_memWrite hw 0 ps

/-- In an idle block no transaction is in progress. -/
theorem rest_of_ready {s : State} (h : s.Inv) (hr : s.ready = true) : s.seq.phase = .rest :=
  not_not.1 fun hp => nomatch ((ready_iff s).1 hr).1.symm.trans (h.busyIff.2 hp)

/-- A command of an idle block that leaves the sequencer alone delivers it as it was. -/
theorem deliver_seq_of_ready {s u : State} (h : s.Inv) (hr : s.ready = true) (hu : u.seq = s.seq) (r : Result) :
    (deliver r u).seq = s.seq := by
  rw [deliver_seq, hu, ← ((ready_iff s).1 hr).2, ← rest_of_ready h hr]

/-- The call `encode_instruction` completes with its frame in `TXBUF`. -/
theorem encodeCall_completes {v : Version} {s : State} {ps : List Byte} (h : s.Inv) (hr : s.ready = true)
    (hv : s.cfg.version = v) (hd : inDomain v ps = true) (id op : Byte) :
    ∃ t, encodeCall v id op ps s = .next t ∧ t.txFrame = encFrame v s.cfg.crcSpan id op ps ∧ t.res.kind = .ok ∧
      t.transport = s.transport ∧ t.bufs.rx = s.bufs.rx ∧ t.seq = s.seq := by
  have hps : (s.ops.loadEncode id op ps).params = ps := loadEncode_params h.pbufWf id op (length_lt_of_inDomain hd)
  have hx := exec_encode_of_ready (s := s.withOps (s.ops.loadEncode id op ps)) hr
    (by rw [withOps_ops, hps, withOps_cfg, hv, hd])
  rw [withOps_ops, hps] at hx
  refine ⟨_, (encodeCall_of_inDomain hr hv hd id op).trans hx, ?frame, rfl, rfl, rfl,
    deliver_seq_of_ready h hr rfl .okEncode⟩
  case frame =>
    subst hv
    exact memRead_memWrite h.txWf 0 _

/-- Settles O56: both rows are the call `encode_instruction` of their version. -/
theorem instructionRowsBuildTheirOwnFrame : Obligations.InstructionRowsBuildTheirOwnFrame :=
  fun _ id op ps h hr =>
    ⟨fun hv hps => encodeCall_completes h hr hv ((inDomainV1_iff ps).2 hps) id op,
      fun hv hps => encodeCall_completes h hr hv ((inDomainV2_iff ps).2 hps) id op⟩

/-! ### The rows that are decoded -/

/-- The call `decode_status` on bytes that the decoder accepts. -/
theorem decodeCall_of_ok {s : State} {b : List Byte} {st : StatusPacket} (h : s.Inv) (hr : s.ready = true)
    (hd : decFrame s.cfg.version s.cfg.crcSpan b = .ok st) :
    ∃ t, decodeCall b s = .next t ∧ t.res.kind = .ok ∧ t.res.id = st.id ∧ (∀ i, st.instr = some i → t.res.instr = i) ∧
      t.res.err = st.error ∧ t.resParams = st.params ∧ t.transport = s.transport ∧ t.bufs.tx = s.bufs.tx ∧
      t.seq = s.seq := by
  have hlen : st.params.length < 2 ^ 17 := by
    have hle := (decFrame_ok hd).1
    omega
  have hx := exec_decode_of_ready (s := s.storeRx b) hr
  rw [storeRx_cfg, rxFrame_storeRx h.rxWf, hd] at hx
  refine ⟨_, (decodeCall_of_ready hr b).trans hx, rfl, rfl, fun i hi => ?instr, rfl, resParams_okDecode _ st hlen, rfl, rfl,
    deliver_seq_of_ready h hr rfl (.okDecode st)⟩
  case instr =>
    show st.instr.getD _ = i
    rw [hi, Option.getD_some]

/-- Settles O57: the row's frame decodes to its fields (R78, R88). -/
theorem statusRowsDecodeToTheirOwnFields : Obligations.StatusRowsDecodeToTheirOwnFields := by
  refine fun s id instr error params h hr => ⟨fun hv hps => ?v1, fun hv hps => ?v2⟩
  case v1 =>
    have hd : decFrame s.cfg.version s.cfg.crcSpan (encsV1 id error params) =
        .ok { id := id, instr := none, error := error, params := params } := by
      rw [hv]
      exact decV1_encV1 id error hps
    rw [exec_v1Status_of_inDomain hps]
    obtain ⟨t, ht, hkind, hid, -, hrest⟩ := decodeCall_of_ok h hr hd
    exact ⟨t, ht, hkind, hid, hrest⟩
  case v2 =>
    have hd : decFrame s.cfg.version s.cfg.crcSpan (encV2 s.cfg.crcSpan id instr (error :: params)) =
        .ok { id := id, instr := some instr, error := error, params := params } := by
      rw [hv]
      exact decV2_encV2 s.cfg.crcSpan id instr error hps
    rw [exec_v2Status_of_inDomain hps]
    obtain ⟨t, ht, hkind, hid, hinstr, hrest⟩ := decodeCall_of_ok h hr hd
    exact ⟨t, ht, hkind, hid, hinstr instr rfl, hrest⟩

end Sys2Proof.Machine
end

section
/-!
PROOF. O5: stuffing is undone, and stuffed bytes escape every trigger (`42_codec_v2.md` R83).
-/
namespace Sys2Proof.Machine

/-- Two `FF` bring the matcher to its full count from any count. -/
theorem ffNext_mark_mark (ff : BitVec 2) : ffNext (ffNext ff 0xFF) 0xFF = 2 := by
  revert ff; decide

/-- `UNSTUFF` accepts a trigger only with its escape byte. -/
theorem eq_esc_of_unstuffFrom_ok {ff : BitVec 2} {d : Byte} {w p : List Byte}
    (h : unstuffFrom ff (0xFF :: 0xFF :: 0xFD :: d :: w) = .ok p) : d = 0xFD := by
  have hmark (ff : BitVec 2) : ¬ isTrigger ff 0xFF = true := nofun
  have htrigger : isTrigger (ffNext (ffNext ff 0xFF) 0xFF) 0xFD = true := by rw [ffNext_mark_mark]; rfl
  by_contra hd
  rw [unstuffFrom_plain _ (hmark _), unstuffFrom_plain _ (hmark _), unstuffFrom_unescaped w htrigger hd] at h
  cases h

/-- Every trigger in stuffed bytes is followed by the escape byte: the occurrence is at the scan's place, where `UNSTUFF` would
reject another byte, or further on. -/
theorem eq_esc_of_infix_stuffFrom {ff : BitVec 2} {d : Byte} {p : List Byte}
    (h : [0xFF, 0xFF, 0xFD, d] <:+: stuffFrom ff p) : d = 0xFD := by
  induction p generalizing ff with
  | nil => exact absurd (List.eq_nil_of_infix_nil h) nofun
  | cons x p ih =>
    by_cases ht : isTrigger ff x = true
    · obtain ⟨rfl, -⟩ := (isTrigger_iff ff x).1 ht
      rw [stuffFrom_trigger p ht, List.infix_cons_iff, List.infix_cons_iff] at h
      obtain hhere | hescape | hlater := h
      · exact absurd (List.cons_prefix_cons.1 hhere).1 (by decide)
      · exact absurd (List.cons_prefix_cons.1 hescape).1 (by decide)
      · exact ih hlater
    · have hok := unstuffFrom_stuffFrom ff (x :: p)
      rw [stuffFrom_plain p ht] at h hok
      obtain ⟨r, hhere⟩ | hlater := List.infix_cons_iff.1 h
      · rw [← hhere] at hok
        exact eq_esc_of_unstuffFrom_ok hok
      · exact ih hlater

/-- Settles O5: the header is a trigger followed by `00`. -/
theorem unstuffUndoesStuff : Obligations.UnstuffUndoesStuff := by
  intro p
  have hesc (l r : List Byte) (d : Byte) (h : stuff p = l ++ [0xFF, 0xFF, 0xFD, d] ++ r) : d = 0xFD :=
    eq_esc_of_infix_stuffFrom ⟨l, r, h.symm⟩
  exact ⟨unstuff_stuff p, hesc, fun l r h => absurd (hesc l r 0x00 h) (by decide)⟩

end Sys2Proof.Machine
end

section
/-!
PROOF. The v2 CRC sees every change of one byte: each step of the register loses nothing of the register, and nothing of the
byte (for R90 of `42_codec_v2.md`).
-/
namespace Sys2Proof.Machine

/-- Only the zero register shifts to zero: the polynomial leaves a bit at the low end. -/
theorem eq_zero_of_crcShift {x : Word16} (h : crcShift x = 0) : x = 0 := by
  unfold crcShift at h
  split at h
  case isTrue => exact absurd (congrArg (BitVec.getLsbD · 0) h) (by simp)
  case isFalse hmsb =>
    have hx := BitVec.msb_eq_false_iff_two_mul_lt.1 (Bool.eq_false_of_not_eq_true hmsb)
    have h0 := congrArg BitVec.toNat h
    rw [BitVec.toNat_shiftLeft, Nat.shiftLeft_eq, Nat.mod_eq_of_lt (by omega)] at h0
    exact BitVec.eq_of_toNat_eq (by simpa using h0)

theorem crcShift_injective : Function.Injective crcShift := fun x y h =>
  BitVec.xor_eq_zero_iff.1 (eq_zero_of_crcShift (by rw [crcShift_xor, h]; exact BitVec.xor_self))

theorem crcShifts_injective (n : Nat) : Function.Injective (crcShifts n) := by
  induction n with
  | zero => exact Function.injective_id
  | succ n ih => exact ih.comp crcShift_injective

theorem crcByte_injective_register (d : Byte) : Function.Injective (crcByte · d) :=
  fun _ _ h => (BitVec.xor_left_inj _).1 (crcShifts_injective 8 h)

theorem crcByte_injective_byte (crc : Word16) : Function.Injective (crcByte crc) := by
  intro d e h
  have hhigh : d.setWidth 16 <<< 8 = e.setWidth 16 <<< 8 := (BitVec.xor_right_inj _).1 (crcShifts_injective 8 h)
  have hword : word16 0 d = word16 0 e := congrArg (0 ||| ·) hhigh
  rw [← hi8_word16 0 d, hword, hi8_word16]

theorem foldl_crcByte_injective (s : List Byte) : Function.Injective (s.foldl crcByte ·) := by
  induction s with
  | nil => exact Function.injective_id
  | cons d s ih => exact ih.comp (crcByte_injective_register d)

/-- The register ends elsewhere when one byte of the run is replaced by another. -/
theorem foldl_crcByte_set_ne {s : List Byte} {k : Nat} {y : Byte} (hk : k < s.length) (hy : y ≠ s[k]) (crc : Word16) :
    (s.set k y).foldl crcByte crc ≠ s.foldl crcByte crc := by
  induction s generalizing k crc with
  | nil => exact absurd hk (Nat.not_lt_zero k)
  | cons d s ih =>
    cases k with
    | zero => exact fun h => hy (crcByte_injective_byte crc (foldl_crcByte_injective s h))
    | succ k => exact ih (Nat.lt_of_succ_lt_succ hk) hy (crcByte crc d)

theorem crcV2_set_ne {s : List Byte} {k : Nat} {y : Byte} (hk : k < s.length) (hy : y ≠ byteAt s k) :
    crcV2 (s.set k y) ≠ crcV2 s :=
  foldl_crcByte_set_ne hk (by rwa [byteAt, List.getD_eq_getElem s 0 hk] at hy) 0

end Sys2Proof.Machine
end

section
/-!
PROOF. O8, O10, O12 and O13: `DEC_V2` accepts the frames of the v2 status format and no others, and one corrupted byte or a
missing end fails the first check that covers it (`42_codec_v2.md` R87 to R90).
-/
namespace Sys2Proof.Machine

/-- Settles O8: `ENCS_V2` is `ENC_V2` with the status instruction byte. -/
theorem v2StatusRoundTrip : Obligations.V2StatusRoundTrip := fun span id error _ h => decV2_encV2 span id statusInstr error h

/-- Settles O10, by the two directions `decV2_ok` and `decV2_encV2`. -/
theorem v2DecoderAcceptsExactlyEncodedFrames : Obligations.V2DecoderAcceptsExactlyEncodedFrames := by
  refine fun span b st => ⟨decV2_ok, fun ⟨i, hinstr, hlen, hb⟩ => ?_⟩
  rw [hb, ← encV2, decV2_encV2 span st.id i st.error hlen, ← hinstr]

/-! ### Bytes of a changed frame -/

theorem byteAt_take {b : List Byte} {n i : Nat} (h : i < n) : byteAt (b.take n) i = byteAt b i := by
  simp [byteAt, List.getD_eq_getElem?_getD, h]

theorem byteAt_slice {b : List Byte} {i j k : Nat} (h : i + k < j) : byteAt (slice b i j) k = byteAt b (i + k) := by
  rw [slice, byteAt_take (by omega), byteAt, byteAt, List.getD_eq_getElem?_getD, List.getElem?_drop,
    List.getD_eq_getElem?_getD]

theorem slice_set {b : List Byte} {i k : Nat} (h : i ≤ k) (y : Byte) (j : Nat) :
    slice (b.set k y) i j = (slice b i j).set (k - i) y := by
  rw [slice, List.drop_set, if_neg (Nat.not_lt_of_le h), List.take_set, slice]

theorem word16_inj {a b c d : Byte} (h : word16 a b = word16 c d) : a = c ∧ b = d :=
  ⟨by rw [← lo8_word16 a b, h, lo8_word16], by rw [← hi8_word16 a b, h, hi8_word16]⟩

/-! ### The checks -/

/-- LEN as a received v2 frame gives it. -/
def lenFieldV2 (b : List Byte) : Nat := (word16 (byteAt b 5) (byteAt b 6)).toNat

/-- The CRC that a received v2 frame carries. -/
def crcField (b : List Byte) : Word16 := word16 (byteAt b (b.length - 2)) (byteAt b (b.length - 1))

/-- Where the CRC's span begins (`40_checksum_crc.md` R66). -/
def spanStart : CrcSpan → Nat
  | .afterHeader => 4
  | .wholeFrame => 0

theorem spanStart_le (span : CrcSpan) : spanStart span ≤ 4 := by cases span <;> decide

theorem spanOf_eq_slice (span : CrcSpan) (b : List Byte) : spanOf span b = slice b (spanStart span) (b.length - 2) := by
  cases span <;> rfl

theorem spanOf_length (span : CrcSpan) (b : List Byte) : (spanOf span b).length = b.length - 2 - spanStart span := by
  rw [spanOf_eq_slice, slice, List.length_take, List.length_drop]
  omega

/-- The header check of `DEC_V2`, as a test of the first four bytes. -/
theorem take_four_eq_markV2_iff (b : List Byte) : b.take 4 = markV2 ↔
    ¬ (b.length < 4 ∨ byteAt b 0 ≠ 0xFF ∨ byteAt b 1 ≠ 0xFF ∨ byteAt b 2 ≠ 0xFD ∨ byteAt b 3 ≠ 0x00) := by
  match b with
  | x0 :: x1 :: x2 :: x3 :: _ => simp [markV2, byteAt]
  | [] | [_] | [_, _] | [_, _, _] => simp [markV2]

theorem decV2_eq_header (span : CrcSpan) {b : List Byte} (h : b.take 4 ≠ markV2) : decV2 span b = .error .header := by
  rw [decV2, parseV2, if_pos (not_not.1 (mt (take_four_eq_markV2_iff b).2 h))]

/-- The checks of `DEC_V2` behind the header. -/
theorem parseV2_of_mark (span : CrcSpan) {b : List Byte} (hmark : b.take 4 = markV2) :
    parseV2 span (minStatusLen .v2) b =
      if lenFieldV2 b < 4 ∨ b.length ≠ lenFieldV2 b + 7 then .error .length
      else if crcV2 (spanOf span b) ≠ crcField b then .error .check
      else unstuff (slice b 8 (b.length - 2)) := by
  rw [parseV2, if_neg ((take_four_eq_markV2_iff b).1 hmark)]
  by_cases hshort : b.length < 7
  · rw [if_pos hshort, if_pos (.inr (by omega))]
  · rw [if_neg hshort, ite_or]; rfl

theorem decV2_eq_length (span : CrcSpan) {b : List Byte} (hmark : b.take 4 = markV2)
    (h : lenFieldV2 b < 4 ∨ b.length ≠ lenFieldV2 b + 7) : decV2 span b = .error .length := by
  rw [decV2, parseV2_of_mark span hmark, if_pos h]

theorem decV2_eq_check {span : CrcSpan} {b : List Byte} (hmark : b.take 4 = markV2)
    (hmin : 4 ≤ lenFieldV2 b) (hlength : b.length = lenFieldV2 b + 7) (hcrc : crcV2 (spanOf span b) ≠ crcField b) :
    decV2 span b = .error .check := by
  rw [decV2, parseV2_of_mark span hmark, if_neg (by omega), if_pos hcrc]

/-- What `DEC_V2` has checked of a frame before it unstuffs. -/
structure PassesV2 (span : CrcSpan) (b : List Byte) : Prop where
  mark : b.take 4 = markV2
  minLen : 4 ≤ lenFieldV2 b
  length : b.length = lenFieldV2 b + 7
  crc : crcV2 (spanOf span b) = crcField b

theorem passesV2_of_ok {span : CrcSpan} {b : List Byte} {st : StatusPacket} (h : decV2 span b = .ok st) : PassesV2 span b := by
  have hfails {c : Cause} : decV2 span b ≠ .error c := fun he => nomatch h.symm.trans he
  have hmark : b.take 4 = markV2 := not_not.1 fun hm => hfails (decV2_eq_header span hm)
  obtain ⟨hmin, hlength⟩ : 4 ≤ lenFieldV2 b ∧ b.length = lenFieldV2 b + 7 := by
    have hlen : ¬ (lenFieldV2 b < 4 ∨ b.length ≠ lenFieldV2 b + 7) := fun hl => hfails (decV2_eq_length span hmark hl)
    omega
  exact ⟨hmark, hmin, hlength, not_not.1 fun hc => hfails (decV2_eq_check hmark hmin hlength hc)⟩

/-! ### A missing end -/

/-- Settles O13: the first four bytes are the header's, and LEN still counts the whole frame. -/
theorem v2TruncationIsFrameError : Obligations.V2TruncationIsFrameError := by
  intro span b st h k hk
  obtain ⟨hmark, -, hlength, -⟩ := passesV2_of_ok h
  by_cases hhead : k < 4
  · rw [if_pos hhead]
    refine decV2_eq_header span fun e => ?_
    have hlen : min 4 (min k b.length) = 4 := by rw [← List.length_take, ← List.length_take, e]; rfl
    omega
  · have hmark' : (b.take k).take 4 = markV2 := by rw [List.take_take, Nat.min_eq_left (by omega), hmark]
    rw [if_neg hhead]
    refine decV2_eq_length span hmark' (.inr ?_)
    rw [List.length_take_of_le (Nat.le_of_lt hk)]
    by_cases hshort : k < 7
    · omega
    · have hfield : lenFieldV2 (b.take k) = lenFieldV2 b := by
        rw [lenFieldV2, byteAt_take (by omega), byteAt_take (by omega), lenFieldV2]
      omega

/-! ### One corrupted byte -/

section
variable {b : List Byte} {k : Nat} {y : Byte}

theorem take_four_set_ne (hk : k < b.length) (hy : y ≠ byteAt b k) (hhead : k < 4) : (b.set k y).take 4 ≠ b.take 4 := by
  intro e
  have hat := congrArg (byteAt · k) e
  simp only [byteAt_take hhead, byteAt_set hk, if_pos] at hat
  exact hy hat

theorem lenFieldV2_set_ne (hk : k < b.length) (hy : y ≠ byteAt b k) (hfield : k = 5 ∨ k = 6) :
    lenFieldV2 (b.set k y) ≠ lenFieldV2 b := by
  intro e
  obtain ⟨hlo, hhi⟩ := word16_inj (BitVec.eq_of_toNat_eq e)
  rw [byteAt_set hk] at hlo hhi
  obtain rfl | rfl := hfield
  · exact hy hlo
  · exact hy hhi

theorem lenFieldV2_set (hk : k < b.length) (hfield : ¬ (k = 5 ∨ k = 6)) : lenFieldV2 (b.set k y) = lenFieldV2 b := by
  rw [lenFieldV2, byteAt_set hk, byteAt_set hk, if_neg (by omega), if_neg (by omega), lenFieldV2]

theorem spanOf_set (span : CrcSpan) (hhead : 4 ≤ k) :
    spanOf span (b.set k y) = (spanOf span b).set (k - spanStart span) y := by
  rw [spanOf_eq_slice, spanOf_eq_slice, List.length_set, slice_set ((spanStart_le span).trans hhead)]

/-- One byte behind the header is covered by the CRC or is one of its two bytes. -/
theorem crc_set_ne {span : CrcSpan} (hcrc : crcV2 (spanOf span b) = crcField b) (hk : k < b.length) (hy : y ≠ byteAt b k)
    (hhead : 4 ≤ k) : crcV2 (spanOf span (b.set k y)) ≠ crcField (b.set k y) := by
  have hstart := (spanStart_le span).trans hhead
  have hlen := spanOf_length span b
  rw [spanOf_set span hhead, crcField, List.length_set, byteAt_set hk, byteAt_set hk]
  by_cases hcovered : k < b.length - 2
  · rw [if_neg (by omega), if_neg (by omega), ← crcField, ← hcrc]
    refine crcV2_set_ne (by omega) ?_
    rwa [spanOf_eq_slice, byteAt_slice (by omega), Nat.add_sub_cancel' hstart]
  · rw [List.set_eq_of_length_le (by omega), hcrc, crcField]
    intro e
    obtain ⟨hlo, hhi⟩ := word16_inj e
    obtain hplace | hplace : k = b.length - 2 ∨ k = b.length - 1 := by omega
    · rw [if_pos hplace, ← hplace] at hlo; exact hy hlo.symm
    · rw [if_pos hplace, ← hplace] at hhi; exact hy hhi.symm

/-- A frame with one byte replaced fails the first check that covers the byte's place. -/
theorem PassesV2.decV2_set {span : CrcSpan} (h : PassesV2 span b) (hk : k < b.length) (hy : y ≠ byteAt b k) :
    decV2 span (b.set k y) = .error (if k < 4 then .header else if k = 5 ∨ k = 6 then .length else .check) := by
  obtain ⟨hmark, hmin, hlength, hcrc⟩ := h
  by_cases hhead : k < 4
  · rw [if_pos hhead]
    exact decV2_eq_header span (hmark ▸ take_four_set_ne hk hy hhead)
  · have hmark' : (b.set k y).take 4 = markV2 := by rw [List.take_set_of_le (Nat.le_of_not_lt hhead), hmark]
    rw [if_neg hhead]
    by_cases hfield : k = 5 ∨ k = 6
    · have hne := lenFieldV2_set_ne hk hy hfield
      rw [if_pos hfield]
      refine decV2_eq_length span hmark' (.inr ?_)
      rw [List.length_set]
      omega
    · rw [if_neg hfield]
      refine decV2_eq_check hmark' (hmin := ?minLen) (hlength := ?length) (crc_set_ne hcrc hk hy (Nat.le_of_not_lt hhead))
      case minLen => rwa [lenFieldV2_set hk hfield]
      case length => rwa [lenFieldV2_set hk hfield, List.length_set]

end

/-- Settles O12: a flipped bit is a replaced byte. -/
theorem v2SingleBitFlipIsFrameError : Obligations.V2SingleBitFlipIsFrameError :=
  fun _ b _ h k _ hk hj => (passesV2_of_ok h).decV2_set hk (xor_twoPow_ne (byteAt b k) hj)

end Sys2Proof.Machine
end

section
/-!
PROOF. O6: the little-endian cut and join (`43_register_descriptor.md` R93, R94).
-/
namespace Sys2Proof.Machine

theorem extractLsb'_ushiftRight (v : Word32) (n k : Nat) : (v >>> n).extractLsb' k 8 = v.extractLsb' (n + k) 8 := by
  ext i hi
  simp [Nat.add_assoc]

/-- Byte `k` of the cut is `v[8k+7:8k]` (R93). -/
theorem leBytes_eq_ofFn (v : Word32) (n : Nat) : leBytes v n = List.ofFn fun k : Fin n => v.extractLsb' (8 * k) 8 := by
  induction n generalizing v with
  | zero => rfl
  | succ n ih =>
    rw [leBytes, ih, List.ofFn_succ, BitVec.setWidth_eq_extractLsb' (by decide)]
    simp only [extractLsb'_ushiftRight, Fin.val_succ, Nat.mul_succ, Nat.add_comm 8]
    rfl

/-- The join of at most four bytes is their sum in base 256, zero-extended (R94). -/
theorem leValue_eq_ofNat {s : List Byte} (h : s.length ≤ 4) : leValue s = BitVec.ofNat 32 ((byteAt s 0).toNat +
    256 * (byteAt s 1).toNat + 65536 * (byteAt s 2).toNat + 16777216 * (byteAt s 3).toNat) := by
  rw [← leValue_toNat s h, BitVec.ofNat_toNat, BitVec.setWidth_eq]

theorem widthBytes_le (w : Width) : widthBytes w ≤ 4 := by cases w <;> decide

/-- Settles O6: the cut byte by byte, and both inverses for every length up to four. -/
theorem littleEndianCutAndJoin : Obligations.LittleEndianCutAndJoin := by
  refine ⟨fun v => ?cut, fun w v hv => leValue_leBytes hv, fun w s hs => ?join⟩
  case cut => exact ⟨leBytes_eq_ofFn v 1, leBytes_eq_ofFn v 2, leBytes_eq_ofFn v 4⟩
  case join =>
    have hlen : s.length ≤ 4 := hs.trans_le (widthBytes_le w)
    exact ⟨leBytes_leValue hlen, leValue_eq_ofNat hlen⟩

end Sys2Proof.Machine
end

section
/-!
PROOF. O39, O40 and O30: the width check, the refusal of a wide v1 address, and the result kind that no delivery has.
-/
namespace Sys2Proof.Machine

/-! ### The checks before a transaction -/

theorem legalWidth_iff (w : BitVec 3) : legalWidth w = true ↔ w = 1 ∨ w = 2 ∨ w = 4 := by
  simp [legalWidth, or_assoc]

theorem widthCheckRead_iff (o : Operands) :
    widthCheckRead o = true ↔ (o.regw = 1 ∨ o.regw = 2 ∨ o.regw = 4) ∧ o.reqw = o.regw := by
  rw [widthCheckRead, Bool.and_eq_true, legalWidth_iff, beq_iff_eq]

/-- The two commands' checks differ in the value, which only a write has (R95). -/
theorem widthCheck_iff (k : Transaction) (o : Operands) :
    widthCheck k o = true ↔ (o.regw = 1 ∨ o.regw = 2 ∨ o.regw = 4) ∧ o.reqw = o.regw ∧
      (k = .write → o.value.toNat < 2 ^ (8 * o.regw.toNat)) := by
  rw [← and_assoc, ← widthCheckRead_iff]
  cases k with
  | read => exact ⟨fun h => ⟨h, nofun⟩, And.left⟩
  | write =>
    rw [widthCheck, widthCheckWrite, Bool.and_eq_true, decide_eq_true_iff]
    exact and_congr_right fun _ => ⟨fun h _ => h, fun h => h rfl⟩

/-- Settles O39. -/
theorem widthCheckPassesExactlyOnLegalWidths : Obligations.WidthCheckPassesExactlyOnLegalWidths :=
  fun k s => ⟨widthCheck_iff k s.ops, fun hr hw => ⟨_, exec_of_widthMismatch hr hw, rfl, rfl⟩⟩

/-- A READ_DATA or WRITE_DATA that passes the width check, with an address its version cannot carry (R97). -/
theorem exec_of_wideAddress {k : Transaction} {s : State} (hr : s.ready = true) (hw : widthCheck k s.ops = true)
    (ha : addressFits s.cfg.version s.ops = false) : exec k.instr s = .refused .addressTooWide := by
  have hw' : widthCheck k (s.setCmd k.code).accept.ops = true := (widthCheck_setCmd k s.ops k.code).trans hw
  have ha' : addressFits (s.setCmd k.code).accept.cfg.version (s.setCmd k.code).accept.ops = false :=
    (addressFits_setCmd s.cfg.version s.ops k.code).trans ha
  rw [exec_transaction, offer_of_ready (s := s.setCmd k.code) hr, transactionBody, hw', ha']
  rfl

/-- Settles O40. -/
theorem wideAddressIsRefusedInV1 : Obligations.WideAddressIsRefusedInV1 := by
  intro k s hr hw hv haddr
  refine exec_of_wideAddress hr hw ?_
  rw [hv]
  exact decide_eq_false (Nat.not_lt_of_le haddr)

/-! ### The reserved result kind -/

theorem Result.kind_ne_unknownRegister (r : Result) : r.kind ≠ .unknownRegister := by cases r <;> nofun

/-- Settles O30: a completed instruction has delivered a result. -/
theorem unknownRegisterIsNeverGiven : Obligations.UnknownRegisterIsNeverGiven := by
  intro i s t h
  obtain ⟨r, ⟨u, -, rfl⟩, -, -⟩ := exec_delivers h
  rw [deliver_res, resultRegs_kind]
  exact r.kind_ne_unknownRegister

end Sys2Proof.Machine
end

section
/-!
PROOF. O52: every part of `exec` carries the access mode along (`CarriesAccess`). RECEIVE is followed as the chain of reads
`receiveThen`.
-/
namespace Sys2Proof.Machine

/-- The state with access mode `m` in `OP_ACCESS`. -/
def State.withAccess (s : State) (m : Access) : State := s.withOps { s.ops with access := m }

/-- The outcome with access mode `m` in its next state, if it has one. -/
def outWithAccess (m : Access) : Out → Out
  | .next t => .next (t.withAccess m)
  | .fault f => .fault f
  | .refused r => .refused r

/-- What RECEIVE returned, with access mode `m` in its state. -/
def receivedWithAccess (m : Access) (x : Received × State) : Received × State := (x.1, x.2.withAccess m)

/-- `k` does not read the access mode `m`, but carries it along. -/
def CarriesAccess (m : Access) (k : State → Out) : Prop := ∀ s, k (s.withAccess m) = outWithAccess m (k s)

variable {m : Access}

/-! ### RECEIVE -/

/-- One read, whose continuation carries the access mode along. -/
theorem receiveThen_withAccess {f : List Byte → State → Received × State}
    (hf : ∀ b u, f b (u.withAccess m) = receivedWithAccess m (f b u)) (s : State) (n : Nat) :
    receiveThen (s.withAccess m) n f = receivedWithAccess m (receiveThen s n f) := by
  cases hr : (s.rxRead n).1 with
  | bytes b =>
    rw [receiveThen_bytes hr]
    exact (receiveThen_bytes (s := s.withAccess m) hr f).trans (hf b (s.rxRead n).2)
  | timeout =>
    rw [receiveThen_timeout hr]
    exact receiveThen_timeout (s := s.withAccess m) hr f
  | ioError =>
    rw [receiveThen_ioError hr]
    exact receiveThen_ioError (s := s.withAccess m) hr f

theorem takeFrame_withAccess (s : State) (p b : List Byte) :
    takeFrame (s.withAccess m) p b = receivedWithAccess m (takeFrame s p b) := by
  rw [takeFrame_eq, takeFrame_eq]
  rfl

theorem receiveBody_withAccess (p : List Byte) (s : State) :
    receiveBody p (s.withAccess m) = receivedWithAccess m (receiveBody p s) := by
  rw [receiveBody_eq, receiveBody_eq]
  exact receiveThen_withAccess (fun b u => takeFrame_withAccess u p b) s _

theorem receivePrefix_withAccess (s : State) :
    receivePrefix (s.withAccess m) = receivedWithAccess m (receivePrefix s) := by
  rw [receivePrefix_eq, receivePrefix_eq]
  refine receiveThen_withAccess (fun p u => ?_) s _
  by_cases hl : lenField u.cfg.version p < minStatusLen u.cfg.version
  · rw [if_pos hl]; exact if_pos hl
  · rw [if_neg hl]; exact (if_neg hl).trans (receiveBody_withAccess p u)

theorem receiveHunt_withAccess (left : Nat) (s : State) :
    receiveHunt left (s.withAccess m) = receivedWithAccess m (receiveHunt left s) := by
  induction left generalizing s with
  | zero =>
    by_cases hf : s.headerFound = true
    · rw [receiveHunt_found hf, receiveHunt_found (s := s.withAccess m) hf]
      exact receivePrefix_withAccess s
    · rw [receiveHunt_usedUp hf]
      exact receiveHunt_usedUp (s := s.withAccess m) hf
  | succ left ih =>
    by_cases hf : s.headerFound = true
    · rw [receiveHunt_found hf, receiveHunt_found (s := s.withAccess m) hf]
      exact receivePrefix_withAccess s
    · rw [receiveHunt_slide hf, receiveHunt_slide (s := s.withAccess m) hf]
      exact receiveThen_withAccess (fun d u => ih (u.slideHunt d)) s 1

theorem receive_withAccess (s : State) : receive (s.withAccess m) = receivedWithAccess m (receive s) := by
  rw [receive_eq, receive_eq]
  exact receiveThen_withAccess (fun w u => receiveHunt_withAccess u.cfg.resyncWindow (u.openHunt w)) s _

/-! ### A transaction -/

theorem transact_withAccess (k : Transaction) (s : State) :
    transact k (s.withAccess m) = (transact k s).withAccess m := by
  have hbroadcast : (s.withAccess m).isBroadcast k = s.isBroadcast k := by cases k <;> rfl
  cases ha : (s.transport.write s.txFrame).1 with
  | ioError =>
    rw [transact_of_ioError ha]
    exact transact_of_ioError (s := s.withAccess m) ha
  | ok =>
    cases hb : s.isBroadcast k with
    | true =>
      rw [transact_of_broadcast ha hb]
      exact transact_of_broadcast (s := s.withAccess m) ha (hbroadcast.trans hb)
    | false =>
      rw [transact_of_sent ha hb, transact_of_sent (s := s.withAccess m) ha (hbroadcast.trans hb)]
      exact congrArg (concluded k) (receive_withAccess ((s.txWrite s.txFrame).2.setTxn .sent).startReceive)

theorem prepare_withAccess (k : Transaction) (s : State) : (s.withAccess m).prepare k = (s.prepare k).withAccess m := by
  cases k <;> rfl

/-! ### The commands and the rows -/

theorem carriesAccess_refused (r : Refusal) : CarriesAccess m fun _ => .refused r := fun _ => rfl

/-- A test that does not read the access mode. -/
theorem CarriesAccess.ite {c : State → Prop} [∀ s, Decidable (c s)] (hc : ∀ s, c (s.withAccess m) ↔ c s)
    {k l : State → Out} (hk : CarriesAccess m k) (hl : CarriesAccess m l) :
    CarriesAccess m fun s => if c s then k s else l s := by
  intro s
  by_cases h : c s
  · simp only [if_pos h, if_pos ((hc s).2 h), hk s]
  · simp only [if_neg h, if_neg (mt (hc s).1 h), hl s]

/-- A load before it, which keeps the access mode. -/
theorem CarriesAccess.comp {k : State → Out} (hk : CarriesAccess m k) {f : State → State}
    (hf : ∀ s, f (s.withAccess m) = (f s).withAccess m) : CarriesAccess m fun s => k (f s) :=
  fun s => (congrArg k (hf s)).trans (hk (f s))

theorem CarriesAccess.offer {k : State → Out} (hk : CarriesAccess m k) (c : BitVec 3) :
    CarriesAccess m fun s => Machine.offer (s.setCmd c) k :=
  .ite (fun _ => .rfl) (hk.comp fun _ => rfl) (carriesAccess_refused _)

theorem encodeBody_carriesAccess : CarriesAccess m encodeBody :=
  .ite (fun _ => .rfl) (fun _ => rfl) (carriesAccess_refused _)

/-- DECODE delivers what the decoder says of `RXBUF`. -/
theorem decodeBody_eq (s : State) : decodeBody s = .next (deliver
    (match decFrame s.cfg.version s.cfg.crcSpan s.rxFrame with
      | .ok st => .okDecode st
      | .error c => .frameError c) s.decodeRx.2) := by
  have he : s.decodeRx = (decFrame s.cfg.version s.cfg.crcSpan s.rxFrame, s.decodeRx.2) := rfl
  rw [decodeBody, he]
  cases decFrame s.cfg.version s.cfg.crcSpan s.rxFrame <;> rfl

theorem decodeBody_carriesAccess : CarriesAccess m decodeBody := by
  intro s
  rw [decodeBody_eq, decodeBody_eq]
  rfl

theorem widthCheck_withAccess (k : Transaction) (s : State) : widthCheck k (s.withAccess m).ops = widthCheck k s.ops := by
  cases k <;> rfl

theorem transactionBody_carriesAccess (k : Transaction) : CarriesAccess m (transactionBody k) := by
  have hrun : CarriesAccess m fun s => .next (transact k (s.prepare k)) := fun s =>
    congrArg Host.Outcome.next ((congrArg (transact k) (prepare_withAccess k s)).trans (transact_withAccess k (s.prepare k)))
  refine .ite (fun s => ?_) (fun _ => rfl) (.ite (fun _ => .rfl) (carriesAccess_refused _) hrun)
  rw [widthCheck_withAccess]

theorem execEncode_carriesAccess : CarriesAccess m execEncode := encodeBody_carriesAccess.offer 1

theorem execDecode_carriesAccess : CarriesAccess m execDecode := decodeBody_carriesAccess.offer 2

theorem execReadData_carriesAccess : CarriesAccess m execReadData := (transactionBody_carriesAccess .read).offer 3

theorem execWriteData_carriesAccess : CarriesAccess m execWriteData := (transactionBody_carriesAccess .write).offer 4

/-- A row of version `v`. -/
theorem CarriesAccess.onlyIn {k : State → Out} (hk : CarriesAccess m k) (v : Version) :
    CarriesAccess m fun s => Machine.onlyIn v s (k s) :=
  .ite (fun _ => .rfl) (.ite (fun _ => .rfl) hk (carriesAccess_refused _)) (carriesAccess_refused _)

theorem encodeCall_carriesAccess (v : Version) (id op : Byte) (ps : List Byte) :
    CarriesAccess m (encodeCall v id op ps) :=
  .onlyIn (.ite (fun _ => .rfl)
    (execEncode_carriesAccess.comp (f := fun s => s.withOps (s.ops.loadEncode id op ps)) fun _ => rfl)
    (carriesAccess_refused _)) v

theorem decodeCall_carriesAccess (b : List Byte) : CarriesAccess m (decodeCall b) :=
  .ite (fun _ => .rfl) (execDecode_carriesAccess.comp (f := (·.storeRx b)) fun _ => rfl) (carriesAccess_refused _)

theorem readCall_carriesAccess (v : Version) (id : Byte) (a : Word16) (w : Width) : CarriesAccess m (readCall v id a w) :=
  .onlyIn (execReadData_carriesAccess.comp (f := fun s => s.withOps (s.ops.loadRead id a w)) fun _ => rfl) v

theorem writeCall_carriesAccess (v : Version) (id : Byte) (a : Word16) (w : Width) (x : Word32) :
    CarriesAccess m (writeCall v id a w x) :=
  .onlyIn (execWriteData_carriesAccess.comp (f := fun s => s.withOps (s.ops.loadWrite id a w x)) fun _ => rfl) v

theorem exec_carriesAccess (i : Instr) : CarriesAccess m (exec i) := by
  cases i with
  | encode => exact execEncode_carriesAccess
  | decode => exact execDecode_carriesAccess
  | readData => exact execReadData_carriesAccess
  | writeData => exact execWriteData_carriesAccess
  | v1Instruction id op ps => exact encodeCall_carriesAccess .v1 id op ps
  | v2Instruction id op ps => exact encodeCall_carriesAccess .v2 id op ps
  | v1Status id e ps => exact .ite (fun _ => .rfl) (decodeCall_carriesAccess _) (carriesAccess_refused _)
  | v2Status id i e ps =>
    exact .ite (fun _ => .rfl) (fun s => decodeCall_carriesAccess (encV2 s.cfg.crcSpan id i (e :: ps)) s)
      (carriesAccess_refused _)
  | readV1 id a w => exact readCall_carriesAccess .v1 id _ w
  | readV2 id a w => exact readCall_carriesAccess .v2 id a w
  | writeV1W1 id a x => exact writeCall_carriesAccess .v1 id _ .w1 _
  | writeV1W2 id a x => exact writeCall_carriesAccess .v1 id _ .w2 _
  | writeV1W4 id a x => exact writeCall_carriesAccess .v1 id _ .w4 x
  | writeV2W1 id a x => exact writeCall_carriesAccess .v2 id a .w1 _
  | writeV2W2 id a x => exact writeCall_carriesAccess .v2 id a .w2 _
  | writeV2W4 id a x => exact writeCall_carriesAccess .v2 id a .w4 x

/-- Settles O52: the outcome with the access mode is what the statement writes out. -/
theorem accessModeIsNeverRead : Obligations.AccessModeIsNeverRead := by
  intro i s m
  refine (exec_carriesAccess i s).trans ?_
  cases exec i s <;> rfl

end Sys2Proof.Machine
end

section
/-!
PROOF. O22: a command is accepted by an idle block only, and until it completes the block's steps leave the host's script and
the operands alone (`44_transaction_engine.md` R101).
-/
namespace Sys2Proof.Machine

/-! ### Refusal while busy -/

theorem not_ready_of_busy {s : State} (h : s.flags.busy = true) : s.ready = false := by simp [State.ready, h]

theorem onlyIn_of_busy {s : State} (h : s.flags.busy = true) (v : Version) (k : Out) : onlyIn v s k = .refused .busy :=
  if_neg (by simp [not_ready_of_busy h])

theorem decodeCall_of_busy {s : State} (h : s.flags.busy = true) (b : List Byte) : decodeCall b s = .refused .busy :=
  if_neg (by simp [not_ready_of_busy h])

/-- An instruction offered while a command is in progress is refused as busy; it is well-formed, since the encoder's domain of a
status row is judged first. -/
theorem exec_of_busy {i : Instr} {s : State} (hi : i.WellFormed) (h : s.flags.busy = true) : exec i s = .refused .busy := by
  have hn := not_ready_of_busy h
  cases i with
  | encode => exact offer_of_not_ready (s := s.setCmd 1) hn _
  | decode => exact offer_of_not_ready (s := s.setCmd 2) hn _
  | readData => exact offer_of_not_ready (s := s.setCmd 3) hn _
  | writeData => exact offer_of_not_ready (s := s.setCmd 4) hn _
  | v1Status id e ps => exact (if_pos hi).trans (decodeCall_of_busy h _)
  | v2Status id i e ps => exact (if_pos hi).trans (decodeCall_of_busy h _)
  | v1Instruction | v2Instruction | readV1 | readV2 | writeV1W1 | writeV1W2 | writeV1W4 | writeV2W1 | writeV2W2 | writeV2W4 =>
    exact onlyIn_of_busy h _ _

/-! ### The block's own step -/

theorem engineStep_world (s : State) : (engineStep s).world = s.world :=
  (congrArg State.world (engineStep_withWorld s s.world) :)

theorem readThen_ops {k : List Byte → State → State} (h : ∀ b u, (k b u).ops = u.ops) (s : State) (n : Nat) :
    (s.readThen n k).ops = s.ops := by
  rcases readThen_cases s n k with ⟨b, -, e⟩ | ⟨-, e⟩ | ⟨-, e⟩
  · rw [e]; exact h b _
  · rw [e]; rfl
  · rw [e]; rfl

theorem afterHuntRead_ops (s : State) : s.afterHuntRead.ops = s.ops := by
  unfold State.afterHuntRead
  split
  · rfl
  · split <;> rfl

theorem engineStep_ops (s : State) : (engineStep s).ops = s.ops := by
  cases hp : s.seq.phase with
  | write =>
    cases ha : (s.transport.write s.txFrame).1 with
    | ok => rw [engineStep_write_ok hp ha]; rfl
    | ioError => rw [engineStep_write_ioError hp ha]; rfl
  | sent =>
    by_cases hb : s.isBroadcast s.transaction = true
    · rw [engineStep_sent_broadcast hp hb]; rfl
    · rw [engineStep_sent_await hp hb]
      exact readThen_ops (fun w u => afterHuntRead_ops (u.openHunt w)) s.startReceive _
  | huntNext => rw [engineStep_huntNext hp]; exact readThen_ops (fun d u => afterHuntRead_ops (u.slideHunt d)) s 1
  | afterHeader =>
    rw [engineStep_afterHeader hp]
    refine readThen_ops (fun p u => ?_) s _
    split <;> rfl
  | body p =>
    rw [engineStep_body hp]
    refine readThen_ops (fun b u => ?_) s _
    exact (takeFrame_receives u p b).ops
  | rest => rw [engineStep_rest hp]
  | deliver r => rw [engineStep_deliver hp]; rfl

/-! ### Codes that are no commands -/

theorem runWords_notACommand {s : State} {c : BitVec 3} (h : c = 0 ∨ c = 5 ∨ c = 6 ∨ c = 7) :
    runWords (.command c) s = .refused (.notACommand c) := by
  rcases h with rfl | rfl | rfl | rfl <;> rfl

/-- Settles O22: each clause is the law of `offer` or of `step` for its event. -/
theorem commandsAreAcceptedOnlyWhenIdle : Obligations.CommandsAreAcceptedOnlyWhenIdle := by
  refine ⟨fun s i => exec_of_busy, fun s k hb ht => offer_of_ready ((ready_iff s).2 ⟨hb, ht⟩) k, ?alone, ?wait, ?now, ?code⟩
  case alone =>
    intro s hinv hb hu
    exact ⟨_, step_inProgress (hinv.busyIff.1 hb) hu, engineStep_world s, engineStep_ops s⟩
  case wait =>
    intro s rest hinv hb hs
    exact ⟨_, step_wait (hinv.busyIff.1 hb) hs, engineStep_world _, engineStep_ops _⟩
  case now =>
    intro s rest i hb hs hd
    have hwf : i.WellFormed := (encodeOfDecodeIsTheWords _ _ _ i hd).1
    rw [step_now hs]
    exact (runWords_of_decode (s := { s with world := { s.world with script := rest } }) hd).trans (exec_of_busy hwf hb)
  case code =>
    intro s rest hp hs hc
    rw [step_event hp hs]
    exact runWords_notACommand hc

end Sys2Proof.Machine
end

section
/-!
PROOF. O32, O34, O35 and O37: ENCODE and DECODE, from the two equations `exec_encode_of_ready` and `exec_decode_of_ready`.
-/
namespace Sys2Proof.Machine

/-! ### ENCODE -/

/-- Settles O32: the frame that is built reads back from `TXBUF`. -/
theorem encodeLeavesTheFrameInTxbuf : Obligations.EncodeLeavesTheFrameInTxbuf := by
  intro s hr hw
  refine ⟨fun hd => exec_encode_of_outside hr (by simp [hd]), fun hd => ⟨_, exec_encode_of_ready hr hd, ?frame, rfl, rfl, rfl,
    rfl, rfl⟩⟩
  case frame => exact txFrame_buildFrame (s := (s.setCmd 1).accept) hw s.ops.id s.ops.opcode s.ops.params

/-! ### DECODE -/

/-- The parameters of a decoded packet are counted by `RES_PLEN`. -/
theorem decFrame_ok_params_lt {v : Version} {span : CrcSpan} {b : List Byte} {st : StatusPacket}
    (h : decFrame v span b = .ok st) : st.params.length < 2 ^ 17 := (decFrame_ok h).1.trans_lt (by decide)

/-- Settles O34: what DECODE delivers is the decoder's answer. -/
theorem decodeReportsTheDecodersAnswer : Obligations.DecodeReportsTheDecodersAnswer := by
  intro s hr
  have hx := exec_decode_of_ready hr
  refine ⟨fun st hd => ?ok, fun c hd => ?error⟩
  case ok =>
    rw [hd] at hx
    have hlen := decFrame_ok_params_lt hd
    refine ⟨_, hx, rfl, rfl, rfl, fun i hi => ?instr, resParams_okDecode _ st hlen, Nat.mod_eq_of_lt hlen, rfl, rfl, rfl⟩
    case instr =>
      show st.instr.getD _ = i
      rw [hi, Option.getD_some]
  case error =>
    rw [hd] at hx
    exact ⟨_, hx, rfl, rfl, rfl, rfl, rfl⟩

/-- The packet a status frame of the version carries (`41_codec_v1.md` R78, `42_codec_v2.md` R88). -/
def sentPacket (v : Version) (id error : Byte) (params : List Byte) : StatusPacket where
  id := id
  instr := match v with
    | .v1 => none
    | .v2 => some statusInstr
  error := error
  params := params

theorem decFrame_statusFrame {v : Version} {error : Byte} {params : List Byte} (h : statusFits v error params = true)
    (span : CrcSpan) (id : Byte) :
    decFrame v span (statusFrame v span id error params) = .ok (sentPacket v id error params) := by
  cases v with
  | v1 => exact decV1_encV1 id error ((inDomainV1_iff params).1 h)
  | v2 => exact decV2_encV2 span id statusInstr error ((inDomainV2_iff (error :: params)).1 h)

/-- Only a READ_DATA or WRITE_DATA ends with the motor's error; a row that runs one of them sends a frame. -/
theorem exec_motorError {i : Instr} {s t : State} (h : exec i s = .next t) (hk : t.res.kind = .motorError) :
    i = .readData ∨ i = .writeData ∨ i.sends = true := by
  obtain ⟨r, ⟨u, -, rfl⟩, hr, -⟩ := exec_delivers h
  rw [deliver_res, resultRegs_kind] at hk
  have encode_ne : ¬ Command.encode.EndsWith s.cfg.version r := by rintro rfl; cases hk
  have decode_ne : ¬ Command.decode.EndsWith s.cfg.version r := by
    rintro (⟨st, rfl, -⟩ | ⟨c, rfl⟩) <;> cases hk
  cases i with
  | readData => exact .inl rfl
  | writeData => exact .inr (.inl rfl)
  | encode | v1Instruction | v2Instruction => exact absurd hr encode_ne
  | decode | v1Status | v2Status => exact absurd hr decode_ne
  | readV1 | readV2 | writeV1W1 | writeV1W2 | writeV1W4 | writeV2W1 | writeV2W2 | writeV2W4 => exact .inr (.inr rfl)

/-- Settles O35: O34 on a status frame, and the results each command can deliver. -/
theorem decodeGivesTheErrorFieldAsData : Obligations.DecodeGivesTheErrorFieldAsData := by
  refine ⟨fun s id error params hr hfits hf => ?_, fun i s t => exec_motorError⟩
  have hd := decFrame_statusFrame hfits s.cfg.crcSpan id
  rw [← hf] at hd
  obtain ⟨t, ht, hkind, hid, herr, -, hparams, -⟩ := (decodeReportsTheDecodersAnswer s hr).1 _ hd
  exact ⟨t, ht, hkind, herr, hid, hparams⟩

/-! ### What both leave alone -/

/-- Settles O37: ENCODE builds a frame and delivers, DECODE judges one and delivers. -/
theorem codecCommandsLeaveTheRestAlone : Obligations.CodecCommandsLeaveTheRestAlone := by
  rintro i s t hinv (rfl | rfl) ht
  case inl =>
    obtain ⟨hr, -, rfl⟩ := encode_cases ht
    exact ⟨rfl, rfl, deliver_seq_of_ready hinv hr rfl .okEncode, rfl, rfl, rfl, rfl,
      fun _ a ha => memGet_memWrite_outside hinv.txWf 0 _ (.inr ((Nat.zero_add _).trans_le ha)), nofun,
      fun hv => encAccs_v1 hv _ _ _ _, fun hv => encAccs_v2 hv _ _ _ _⟩
  case inr =>
    have hr := decode_ready ht
    cases (exec_decode_of_ready hr).symm.trans ht
    have hseq := fun r => deliver_seq_of_ready (u := (s.setCmd 2).accept.decodeRx.2) hinv hr rfl r
    exact ⟨rfl, rfl, hseq _, rfl, rfl, rfl, rfl, nofun, fun _ => rfl,
      fun hv => decAccs_v1 hv _ _, fun hv => decAccs_v2 hv _ _⟩

end Sys2Proof.Machine
end

section
/-!
PROOF. O38, O42 and O43: a failed width check, a failing transport, a broadcast write.
-/
namespace Sys2Proof.Machine

/-! ### A failed width check -/

/-- Settles O38: the mismatch is delivered from the state in which the command was accepted. -/
theorem widthMismatchTouchesNothing : Obligations.WidthMismatchTouchesNothing := by
  intro k s hr hw
  refine ⟨_, exec_of_widthMismatch hr hw, rfl, rfl, rfl, rfl, rfl, rfl, rfl, ?seq, rfl⟩
  case seq => rw [deliver_seq, ← ((ready_iff s).1 hr).2]; rfl

/-! ### What a transaction starts from -/

@[simp] theorem started_transport (s : State) (k : Transaction) : (s.started k).transport = s.transport := by
  cases k <;> rfl

@[simp] theorem started_isBroadcast (s : State) (k : Transaction) : (s.started k).isBroadcast k = s.isBroadcast k := by
  cases k <;> rfl

@[simp] theorem started_rx (s : State) (k : Transaction) : (s.started k).bufs.rx = s.bufs.rx := by cases k <;> rfl

@[simp] theorem started_rxlen (s : State) (k : Transaction) : (s.started k).bufs.rxlen = s.bufs.rxlen := by cases k <;> rfl

theorem isBroadcast_iff (s : State) (k : Transaction) :
    s.isBroadcast k = true ↔ k = .write ∧ s.ops.id = s.cfg.broadcastId := by
  cases k with
  | read => exact ⟨nofun, nofun⟩
  | write => exact beq_iff_eq.trans ⟨fun h => ⟨rfl, h⟩, And.right⟩

/-! ### A failing transport -/

/-- The state in which RECEIVE starts, the frame in `TXBUF` having been written. -/
def State.listening (s : State) : State := ((s.txWrite s.txFrame).2.setTxn .sent).startReceive

/-- The requests up to a point of RECEIVE: the `TxWrite`, then the reads. -/
theorem Receives.log_of_listening {s t : State} {reads : List Exchange} (ha : (s.transport.write s.txFrame).1 = .ok)
    (h : Receives s.listening t reads) : t.transport.log = s.transport.log ++ .txWrite s.txFrame .ok :: reads := by
  have hwrite : s.listening.transport.log = s.transport.log ++ [.txWrite s.txFrame .ok] :=
    ha ▸ write_log s.transport s.txFrame
  rw [h.log, hwrite, List.append_assoc, List.singleton_append]

/-- A response that decodes is no failure of the transport. -/
theorem classify_kind_ne (k : Transaction) (q : Sequencer) (st : StatusPacket) :
    (classify k q st).1.kind ≠ .timeout ∧ (classify k q st).1.kind ≠ .ioError := by
  rcases classify_cases k q st with ⟨-, h⟩ | ⟨-, -, h⟩ | ⟨-, -, -, -, h⟩ | ⟨-, -, -, -, h⟩ | ⟨-, -, -, h⟩ <;>
    rw [h] <;> exact ⟨nofun, nofun⟩

/-- The result says how the reads ended (R114). -/
theorem ReadsOf.conclude_cases {d : Timeout} {r : Received} {reads : List Exchange} (h : ReadsOf d r reads)
    (k : Transaction) (q : Sequencer) :
    ((conclude k q r).1.kind = .timeout ∧ ReadsOf d .timeout reads) ∨
    ((conclude k q r).1.kind = .ioError ∧ ReadsOf d .ioError reads) ∨
    ((conclude k q r).1.kind ≠ .timeout ∧ (conclude k q r).1.kind ≠ .ioError ∧ ∀ e ∈ reads, e.gaveBytes) := by
  cases r with
  | ok st => exact .inr (.inr ⟨(classify_kind_ne k q st).1, (classify_kind_ne k q st).2, h⟩)
  | err c => exact .inr (.inr ⟨nofun, nofun, h⟩)
  | timeout => exact .inl ⟨rfl, h⟩
  | ioError => exact .inr (.inl ⟨rfl, h⟩)

/-- Settles O42, by the three ways a transaction can go. -/
theorem transportFailuresEndTheTransaction : Obligations.TransportFailuresEndTheTransaction := by
  intro k s t hinv ht hx
  cases (exec_of_transacts ht).symm.trans hx
  rw [← started_txFrame hinv.txWf k, ← started_log s k, ← started_cfg s k]
  rcases transact_cases k (s.started k) with ⟨ha, e⟩ | ⟨ha, -, e⟩ | ⟨ha, -, e⟩
  case inl =>
    have hlog := (finish_writesOnce ha (.ioError, .ioFailed) fun _ => rfl).log
    exact ⟨[], .inl ⟨e ▸ hlog, rfl, e ▸ rfl⟩⟩
  case inr.inl =>
    have hlog := (finish_writesOnce ha (.okWrite, .sent) nofun).log
    exact ⟨[], .inr ⟨e ▸ hlog, .inr (.inr ⟨by rw [e]; nofun, by rw [e]; nofun, nofun⟩)⟩⟩
  case inr.inr =>
    obtain ⟨reads, hr, hreads, -, ea⟩ := awaitResponse_eq k (((s.started k).txWrite (s.started k).txFrame).2.setTxn .sent)
    refine ⟨reads, .inr ⟨?log, ?result⟩⟩
    case log => rw [e, ea, finish_transport, hr.log_of_listening ha]
    case result =>
      rw [e, ea, finish_res, resultRegs_kind]
      exact hreads.conclude_cases k _

/-! ### A broadcast write -/

/-- A frame that `TxWrite` took joins the TX stream. -/
theorem write_ok_txStream {t : Transport} {f : List Byte} (h : (t.write f).1 = .ok) :
    (t.write f).2.txStream = t.txStream ++ f := by
  rcases write_cases t f with ⟨-, e⟩ | ⟨n, -, e⟩
  · rw [e]
  · rw [e] at h; cases h

/-- Settles O43: the transaction is over with the answer to its `TxWrite`. -/
theorem broadcastWriteIssuesNoRead : Obligations.BroadcastWriteIssuesNoRead := by
  intro s hinv hr haddr hid
  refine ⟨fun hw => ⟨_, exec_of_widthMismatch (k := .write) hr hw, rfl, rfl⟩, fun hw => ?_⟩
  have hx := exec_of_transacts (k := .write) ⟨hr, hw, haddr⟩
  have hb : (s.started .write).isBroadcast .write = true := by
    rw [started_isBroadcast, isBroadcast_iff]
    exact ⟨rfl, hid⟩
  rw [← started_txFrame hinv.txWf .write, ← started_transport s .write]
  cases ha : ((s.started .write).transport.write (s.started .write).txFrame).1 with
  | ok =>
    rw [transact_of_broadcast ha hb] at hx
    have hlog := (finish_writesOnce ha (.okWrite, .sent) nofun).log
    exact ⟨_, .ok, hx, hlog, write_unread _ _, write_rxPlan _ _, fun _ => ⟨rfl, write_ok_txStream ha⟩, nofun⟩
  | ioError =>
    rw [transact_of_ioError ha] at hx
    have hlog := (finish_writesOnce ha (.ioError, .ioFailed) fun _ => rfl).log
    exact ⟨_, .ioError, hx, hlog, write_unread _ _, write_rxPlan _ _, nofun, fun _ => rfl⟩

end Sys2Proof.Machine
end

section
/-!
PROOF. O49 and O55: what a transaction leaves alone (`LeavesAlone`), and when it stores a frame (`StoresFrame`); a frame row leaves
alone what its command does, but for the operands or bytes it loads.
-/
namespace Sys2Proof.Machine

/-! ### A transaction -/

/-- From `s`, whose frame is built, to `t` a transaction has left all but the sequencer, `RXBUF`, the transport, the results, the
flags and the version's own accumulators as it was. -/
structure LeavesAlone (s t : State) : Prop where
  cfg    : t.cfg = s.cfg
  ops    : t.ops = s.ops
  world  : t.world = s.world
  tx     : t.bufs.tx = s.bufs.tx
  txlen  : t.bufs.txlen = s.bufs.txlen
  reqW   : t.seq.reqW = s.seq.reqW
  accsV1 : s.cfg.version = .v1 → t.accs.crc16 = s.accs.crc16 ∧ t.accs.ffcnt = s.accs.ffcnt
  accsV2 : s.cfg.version = .v2 → t.accs.chk8 = s.accs.chk8

theorem transact_leavesAlone (k : Transaction) (s : State) : LeavesAlone s (transact k s) := by
  have hfinish : ∀ r, LeavesAlone s (finish r (s.txWrite s.txFrame).2) := fun r =>
    ⟨rfl, rfl, rfl, rfl, rfl, rfl, fun _ => ⟨rfl, rfl⟩, fun _ => rfl⟩
  rcases transact_cases k s with ⟨-, e⟩ | ⟨-, -, e⟩ | ⟨-, -, e⟩
  · exact e ▸ hfinish (.ioError, .ioFailed)
  · exact e ▸ hfinish (.okWrite, .sent)
  · obtain ⟨reads, hr, -, -, ea⟩ := awaitResponse_eq k ((s.txWrite s.txFrame).2.setTxn .sent)
    rw [e, ea]
    exact ⟨hr.cfg, hr.ops, hr.world, hr.tx, hr.txlen, hr.reqW, hr.accsV1, hr.accsV2⟩

/-- From `s`, whose frame is built, to the completed `t` a transaction has stored the frame it received: it awaited one, made a
read after those of the hunt and of the fixed bytes, and its result is what the decoder and the classification give. -/
structure StoresFrame (k : Transaction) (s t : State) : Prop where
  awaited : s.isBroadcast k = false
  stored  : ∃ f, t.bufs.rx = memWrite s.bufs.rx 0 f ∧ t.bufs.rxlen = f.length
  judged  : ¬ (t.res.kind = .timeout ∨ t.res.kind = .ioError ∨ t.res.kind = .widthMismatch ∨
    (t.res.kind = .frameError ∧ t.res.cause = .header))
  reads   : t.transport.log.length = s.transport.log.length + t.seq.resyncCnt + 4

/-- What RECEIVE returns for the decoder's answer. -/
def Received.ofDecoder : Except Cause StatusPacket → Received
  | .ok st => .ok st
  | .error c => .err c

@[simp] theorem Received.ofDecoder_ok (st : StatusPacket) : Received.ofDecoder (.ok st) = .ok st := rfl

@[simp] theorem Received.ofDecoder_error (c : Cause) : Received.ofDecoder (.error c) = .err c := rfl

/-- The results of a frame that is stored: it began with the header, so HEADER is not its cause. -/
theorem conclude_judged {v : Version} {span : CrcSpan} {x : List Byte} {r : Received}
    (h : r = .ofDecoder (decFrame v span (mark v ++ x))) (k : Transaction) (q : Sequencer) (n : Nat) :
    ¬ ((resultRegs n (conclude k q r).1).kind = .timeout ∨ (resultRegs n (conclude k q r).1).kind = .ioError ∨
      (resultRegs n (conclude k q r).1).kind = .widthMismatch ∨
      ((resultRegs n (conclude k q r).1).kind = .frameError ∧ (resultRegs n (conclude k q r).1).cause = .header)) := by
  cases hd : decFrame v span (mark v ++ x) with
  | ok st =>
    rw [hd] at h
    subst h
    rcases classify_cases k q st with ⟨-, h⟩ | ⟨-, -, h⟩ | ⟨-, -, -, -, h⟩ | ⟨-, -, -, -, h⟩ | ⟨-, -, -, h⟩ <;>
      simp [conclude, h, resultRegs]
  | error c =>
    rw [hd] at h
    subst h
    have hc : c ≠ .header := fun hc => decFrame_mark_ne_header v span x (hc ▸ hd)
    simp [conclude, resultRegs, hc]

/-- `RXBUF` is as before, or a frame has been stored in it. -/
theorem transact_rx (k : Transaction) {s : State} (hw : Memory.wf s.bufs.rx = true) :
    ((transact k s).bufs.rx = s.bufs.rx ∧ (transact k s).bufs.rxlen = s.bufs.rxlen) ∨ StoresFrame k s (transact k s) := by
  rcases transact_cases k s with ⟨-, e⟩ | ⟨-, -, e⟩ | ⟨ha, hb, e⟩
  · exact .inl (by rw [e]; exact ⟨rfl, rfl⟩)
  · exact .inl (by rw [e]; exact ⟨rfl, rfl⟩)
  · obtain ⟨reads, hr, -, hstored, ea⟩ := awaitResponse_eq k ((s.txWrite s.txFrame).2.setTxn .sent)
    rw [e, ea]
    rcases hstored with ⟨p, body, -, -, hrx, hrxlen, hjudged⟩ | ⟨hrx, hrxlen, -⟩
    case inr => exact .inl ⟨hrx, hrxlen⟩
    rcases receive_stores_late s.listening with hsame | hlate
    case inl => exact .inl hsame
    have hjudged := hjudged hw
    rw [List.append_assoc] at hjudged
    refine .inr ⟨hb, ⟨_, hrx, hrxlen⟩, conclude_judged hjudged k _ _, hlate.trans ?_⟩
    have hwrite : s.listening.transport.log.length = s.transport.log.length + 1 := by
      show (s.transport.write s.txFrame).2.log.length = _
      rw [write_log, List.length_append, List.length_singleton]
    rw [hwrite, finish_seq]
    show _ = s.transport.log.length + (receive s.listening).2.seq.resyncCnt + 4
    omega

theorem started_accs (s : State) (k : Transaction) :
    (s.started k).accs = encAccs s.cfg s.ops.id (requestOpcode k) (requestParams k s) s.accs := by cases k <;> rfl

theorem started_tx (s : State) (k : Transaction) : (s.started k).bufs.tx = memWrite s.bufs.tx 0 (requestFrame k s) := by
  cases k <;> rfl

theorem started_txlen (s : State) (k : Transaction) : (s.started k).bufs.txlen = (requestFrame k s).length := by
  cases k <;> rfl

/-- A write at the start of a buffer is below its length. -/
theorem memGet_memWrite_above {m : Memory} (h : Memory.wf m = true) {bs : List Byte} {a : Nat} (ha : bs.length ≤ a) :
    memGet (memWrite m 0 bs) a = memGet m a :=
  memGet_memWrite_outside h 0 bs (.inr ((Nat.zero_add _).trans_le ha))

/-- Settles O49: a failed width check touches nothing (O38); a transaction that runs builds its frame, and then leaves alone what
`LeavesAlone` says and `RXBUF` unless it stores a frame. -/
theorem transactionsLeaveTheRestAlone : Obligations.TransactionsLeaveTheRestAlone := by
  intro k s t hinv hx
  rcases transaction_cases hx with ⟨-, -, rfl⟩ | ⟨ht, rfl⟩
  case inl =>
    exact ⟨rfl, rfl, rfl, fun _ _ => rfl, fun _ _ => rfl, fun _ => ⟨rfl, rfl⟩, fun _ _ => ⟨rfl, rfl⟩,
      fun _ _ _ _ => ⟨rfl, rfl⟩, fun _ => rfl, fun _ => ⟨rfl, rfl⟩, fun _ => rfl⟩
  case inr =>
    have h := transact_leavesAlone k (s.started k)
    have hrx := transact_rx k (s := s.started k) (by rw [started_rx]; exact hinv.rxWf)
    rw [started_rx, started_rxlen] at hrx
    refine ⟨by rw [h.ops, started_ops], h.cfg.trans (started_cfg s k), h.world.trans (started_world s k), fun a ha => ?tx,
      fun a ha => ?rx, fun hk => hrx.resolve_right fun hs => hs.judged hk, fun hk hid => hrx.resolve_right fun hs => ?broadcast,
      fun a reads hlog hlen => hrx.resolve_right fun hs => ?reads, ?reqW,
      fun hv => ?accsV1, fun hv => ?accsV2⟩
    case tx =>
      rw [h.txlen, started_txlen] at ha
      rw [h.tx, started_tx, memGet_memWrite_above hinv.txWf ha]
    case rx =>
      rcases hrx with ⟨hrx, -⟩ | hs
      · rw [hrx]
      · obtain ⟨f, hf, hlen⟩ := hs.stored
        rw [hf, started_rx, memGet_memWrite_above hinv.rxWf (hlen ▸ ha)]
    case broadcast =>
      have hawaited := hs.awaited
      rw [started_isBroadcast, (isBroadcast_iff s k).2 ⟨hk, hid⟩] at hawaited
      cases hawaited
    case reads =>
      have hcount := hs.reads
      rw [hlog, started_transport, List.length_append, List.length_cons] at hcount
      omega
    case reqW => rintro rfl; exact h.reqW
    case accsV1 =>
      have hown := h.accsV1 (by rw [started_cfg, hv])
      rw [started_accs] at hown
      have henc := encAccs_v1 hv s.ops.id (requestOpcode k) (requestParams k s) s.accs
      exact ⟨hown.1.trans henc.1, hown.2.trans henc.2⟩
    case accsV2 =>
      rw [h.accsV2 (by rw [started_cfg, hv]), started_accs]
      exact encAccs_v2 hv _ _ _ _

/-! ### The frame rows -/

theorem withOps_inv {s : State} (h : s.Inv) (hp : s.seq.phase = .rest) {o : Operands} (ho : Memory.wf o.pbuf = true) :
    (s.withOps o).Inv := { h with pbufWf := ho, command := fun hn => absurd hp hn }

theorem storeRx_inv {s : State} (h : s.Inv) (f : List Byte) : (s.storeRx f).Inv := { h with rxWf := memWrite_wf h.rxWf 0 f }

theorem loaded_inv {s : State} (h : s.Inv) (hp : s.seq.phase = .rest) (i : Instr) : (loaded i s).Inv := by
  cases i with
  | encode | decode | readData | writeData => exact h
  | v1Instruction id op ps | v2Instruction id op ps => exact withOps_inv h hp (memWrite_wf h.pbufWf 0 ps)
  | v1Status | v2Status => exact storeRx_inv h _
  | readV1 | readV2 | writeV1W1 | writeV1W2 | writeV1W4 | writeV2W1 | writeV2W2 | writeV2W4 => exact withOps_inv h hp h.pbufWf

/-- What loading changes: operands or `RXBUF`. -/
theorem loaded_keeps (i : Instr) (s : State) :
    (loaded i s).cfg = s.cfg ∧ (loaded i s).world = s.world ∧ (loaded i s).accs = s.accs := by
  cases i <;> exact ⟨rfl, rfl, rfl⟩

/-- What every command leaves alone, by O37 and O49. -/
theorem command_keeps {c : Command} {s t : State} (hinv : s.Inv) (h : exec c.instr s = .next t) :
    t.world = s.world ∧ (s.cfg.version = .v1 → t.accs.crc16 = s.accs.crc16 ∧ t.accs.ffcnt = s.accs.ffcnt) ∧
      (s.cfg.version = .v2 → t.accs.chk8 = s.accs.chk8) := by
  cases c with
  | encode =>
    obtain ⟨-, -, -, -, hworld, -, -, -, -, haccs⟩ := codecCommandsLeaveTheRestAlone .encode s t hinv (.inl rfl) h
    exact ⟨hworld, haccs⟩
  | decode =>
    obtain ⟨-, -, -, -, hworld, -, -, -, -, haccs⟩ := codecCommandsLeaveTheRestAlone .decode s t hinv (.inr rfl) h
    exact ⟨hworld, haccs⟩
  | transaction k =>
    obtain ⟨-, -, hworld, -, -, -, -, -, -, haccs⟩ := transactionsLeaveTheRestAlone k s t hinv h
    exact ⟨hworld, haccs⟩

/-- An instruction row: O37 of ENCODE, but for the operands loaded. -/
theorem encode_loaded_leaves {s t : State} {id op : Byte} {ps : List Byte} (hinv : s.Inv) (hp : s.seq.phase = .rest)
    (h : exec .encode (s.withOps (s.ops.loadEncode id op ps)) = .next t) :
    { t.ops with cmd := s.ops.cmd, id := s.ops.id, opcode := s.ops.opcode, plen := s.ops.plen, pbuf := s.ops.pbuf } = s.ops ∧
    (∀ a, ps.length ≤ a → memGet t.ops.pbuf a = memGet s.ops.pbuf a) ∧
    (∀ a, t.bufs.txlen ≤ a → memGet t.bufs.tx a = memGet s.bufs.tx a) ∧
    t.bufs.rx = s.bufs.rx ∧ t.bufs.rxlen = s.bufs.rxlen ∧ t.seq = s.seq ∧ t.transport = s.transport := by
  obtain ⟨hops, -, hseq, htransport, -, hrx, hrxlen, htx, -⟩ := codecCommandsLeaveTheRestAlone .encode _ t
    (withOps_inv hinv hp (memWrite_wf hinv.pbufWf 0 ps)) (.inl rfl) h
  have hpbuf : t.ops.pbuf = memWrite s.ops.pbuf 0 ps := congrArg Operands.pbuf hops
  refine ⟨?ops, fun a ha => ?pbuf, htx rfl, hrx, hrxlen, hseq, htransport⟩
  case ops => exact congrArg (fun o : Operands => { o with
    id := s.ops.id, opcode := s.ops.opcode, plen := s.ops.plen, pbuf := s.ops.pbuf }) hops
  case pbuf => rw [hpbuf, memGet_memWrite_above hinv.pbufWf ha]

/-- A status row: O37 of DECODE, but for the bytes loaded. -/
theorem decode_loaded_leaves {s t : State} {b : List Byte} (hinv : s.Inv) (h : exec .decode (s.storeRx b) = .next t) :
    { t.ops with cmd := s.ops.cmd } = s.ops ∧ t.bufs.tx = s.bufs.tx ∧ t.bufs.txlen = s.bufs.txlen ∧
    (∀ a, t.bufs.rxlen ≤ a → memGet t.bufs.rx a = memGet s.bufs.rx a) ∧ t.seq = s.seq ∧ t.transport = s.transport := by
  obtain ⟨hops, -, hseq, htransport, -, -, -, -, hbufs, -⟩ := codecCommandsLeaveTheRestAlone .decode _ t
    (storeRx_inv hinv b) (.inr rfl) h
  have hbufs := hbufs rfl
  refine ⟨hops, (congrArg Buffers.tx hbufs :), (congrArg Buffers.txlen hbufs :), fun a ha => ?rx, hseq, htransport⟩
  case rx =>
    rw [hbufs] at ha ⊢
    exact memGet_memWrite_above hinv.rxWf ha

/-- A READ or WRITE row: O49 of its transaction, on the operands loaded. -/
theorem transaction_loaded_leaves {k : Transaction} {s t : State} {o : Operands} (hinv : s.Inv) (hp : s.seq.phase = .rest)
    (h : exec k.instr (s.withOps o) = .next t) (ho : o.pbuf = s.ops.pbuf) :
    t.ops.opcode = o.opcode ∧ t.ops.access = o.access ∧ t.ops.plen = o.plen ∧ t.ops.pbuf = o.pbuf ∧
    t.ops.value = o.value ∧ (k = .write → t.seq.reqW = s.seq.reqW) ∧
    (∀ a, t.bufs.txlen ≤ a → memGet t.bufs.tx a = memGet s.bufs.tx a) ∧
    (∀ a, t.bufs.rxlen ≤ a → memGet t.bufs.rx a = memGet s.bufs.rx a) := by
  obtain ⟨hops, -, -, htx, hrx, -, -, -, hreqW, -⟩ := transactionsLeaveTheRestAlone k (s.withOps o) t
    (withOps_inv hinv hp (ho ▸ hinv.pbufWf)) h
  exact ⟨(congrArg Operands.opcode hops :), (congrArg Operands.access hops :), (congrArg Operands.plen hops :),
    (congrArg Operands.pbuf hops :), (congrArg Operands.value hops :), hreqW, htx, hrx⟩

/-- Settles O55: a row is its command on what it loads. -/
theorem frameRowsLeaveTheRestAlone : Obligations.FrameRowsLeaveTheRestAlone := by
  intro i s t hinv hi hx
  obtain ⟨hr, h⟩ := exec_next_cases hx
  have hp := rest_of_ready hinv hr
  obtain ⟨hcfg, hworld, haccs⟩ := loaded_keeps i s
  obtain ⟨hworld', haccs'⟩ := command_keeps (loaded_inv hinv hp i) h
  rw [hcfg, haccs] at haccs'
  refine ⟨exec_cfg hx, hworld'.trans hworld, ?instruction, fun hd => ?status, fun hs => ?sends, haccs'⟩
  case instruction => rintro id op ps (rfl | rfl) <;> exact encode_loaded_leaves hinv hp h
  case status =>
    cases i with
    | v1Status | v2Status => exact decode_loaded_leaves hinv h
    | decode => exact absurd rfl hi
    | _ => cases hd
  case sends =>
    cases i with
    | readV1 | readV2 =>
      obtain ⟨hopcode, haccess, hplen, hpbuf, hvalue, -, hbufs⟩ := transaction_loaded_leaves (k := .read) hinv hp h rfl
      exact ⟨hopcode, haccess, hplen, hpbuf, fun _ => hvalue, nofun, hbufs⟩
    | writeV1W1 | writeV1W2 | writeV1W4 | writeV2W1 | writeV2W2 | writeV2W4 =>
      obtain ⟨hopcode, haccess, hplen, hpbuf, -, hreqW, hbufs⟩ := transaction_loaded_leaves (k := .write) hinv hp h rfl
      exact ⟨hopcode, haccess, hplen, hpbuf, nofun, fun _ => hreqW rfl, hbufs⟩
    | _ => cases hs

end Sys2Proof.Machine
end

section
/-!
PROOF. RECEIVE from a transport that answers as L2-E scripts it, for O44, O46, O48 and O60: where the hunt leads, and what the reads
after the header take. Where the header is found the state is known but for the log (`receive_of_stray`).
-/
namespace Sys2Proof.Machine

/-! ### The reads -/

/-- The bytes `u` are all that is unread, and no read is planned to fail. -/
structure Holds (s : State) (u : List Byte) : Prop where
  rxPlan : s.transport.rxPlan = []
  unread : s.transport.unread = u

/-- A read takes the first bytes. -/
theorem Holds.rxRead {s : State} {n : Nat} {b rest : List Byte} (h : Holds s (b ++ rest)) (hb : b.length = n) :
    (s.rxRead n).1 = .bytes b ∧ Holds (s.rxRead n).2 rest := by
  subst hb
  have hr := read_unplanned_bytes h.rxPlan (n := b.length) (by rw [h.unread]; simp) s.seq.deadline
  rw [h.unread, List.take_left, List.drop_left] at hr
  exact ⟨congrArg Prod.fst hr, by rw [rxRead_transport, hr]; exact h.rxPlan, by rw [rxRead_transport, hr]⟩

/-! ### The hunt -/

/-- The hunt has `stray` before it: its window and the unread bytes are `stray`, then the header, which does not occur earlier, then
`rest`. -/
structure Hunting (s : State) (stray rest : List Byte) : Prop where
  rxPlan : s.transport.rxPlan = []
  window : s.seq.hunt.length = headerLen s.cfg.version
  stream : s.seq.hunt ++ s.transport.unread = stray ++ mark s.cfg.version ++ rest
  first  : ∀ j < stray.length,
    ((stray ++ mark s.cfg.version ++ rest).drop j).take (headerLen s.cfg.version) ≠ mark s.cfg.version

theorem mark_length (v : Version) : (mark v).length = headerLen v := by cases v <;> rfl

/-- With no stray byte left the window holds the header. -/
theorem Hunting.found {s : State} {rest : List Byte} (h : Hunting s [] rest) :
    s.seq.hunt = mark s.cfg.version ∧ s.transport.unread = rest :=
  List.append_inj h.stream (h.window.trans (mark_length _).symm)

theorem Hunting.not_found {s : State} {d : Byte} {stray rest : List Byte} (h : Hunting s (d :: stray) rest) :
    ¬ s.headerFound = true := by
  have h0 := h.first 0 (Nat.succ_pos _)
  rw [← h.stream, List.drop_zero, ← h.window, List.take_left] at h0
  exact fun hf => h0 (of_decide_eq_true hf)

/-- One more byte is read, and the window drops a stray one. -/
theorem Hunting.slide {s : State} {d : Byte} {stray rest : List Byte} (h : Hunting s (d :: stray) rest) :
    ∃ e, (s.rxRead 1).1 = .bytes [e] ∧ ((s.rxRead 1).2.slideHunt [e]).transport.unread = s.transport.unread.drop 1 ∧
      Hunting ((s.rxRead 1).2.slideHunt [e]) stray rest := by
  have hlen := congrArg List.length h.stream
  have hpos := headerLen_pos s.cfg.version
  have hstream := h.stream
  simp only [List.length_append, List.length_cons, mark_length, h.window] at hlen
  obtain ⟨c, w, hw⟩ := List.exists_cons_of_length_pos (l := s.seq.hunt) (by rw [h.window]; omega)
  obtain ⟨e, u, hu⟩ := List.exists_cons_of_length_pos (l := s.transport.unread) (by omega)
  obtain ⟨hbytes, hholds⟩ := Holds.rxRead (s := s) (n := 1) (b := [e]) (rest := u) ⟨h.rxPlan, hu⟩ rfl
  rw [hw, hu] at hstream
  refine ⟨e, hbytes, by rw [hu]; exact hholds.unread, hholds.rxPlan, ?window, ?stream, fun j hj => ?first⟩
  case window =>
    have hwin := h.window
    rw [hw] at hwin
    simpa [hw] using hwin
  case stream =>
    rw [slideHunt_transport, hholds.unread, slideHunt_seq, rxRead_seq, hw]
    simpa using (List.cons_eq_cons.1 hstream).2
  case first => exact h.first (j + 1) (Nat.succ_lt_succ hj)

/-- The hunt is over at the header, `rest` being what is unread. -/
def State.foundBefore (s : State) (rest : List Byte) : State :=
  { s with
    transport := { s.transport with unread := rest, rxPlan := [] }
    seq := { s.seq with hunt := mark s.cfg.version } }

/-- The state with other records of what happened: the count of stray bytes, and the log. -/
def State.withTrace (s : State) (n : Nat) (l : List Exchange) : State :=
  { s with transport := { s.transport with log := l }, seq := { s.seq with resyncCnt := n } }

/-- Within the resync window the hunt ends at the header, whatever the stray bytes were. -/
theorem receiveHunt_of_stray {s : State} {stray rest : List Byte} (h : Hunting s stray rest) {left : Nat}
    (hleft : stray.length ≤ left) : ∃ l,
      receiveHunt left s = receivePrefix ((s.foundBefore rest).withTrace (s.seq.resyncCnt + stray.length) l) := by
  induction stray generalizing s left with
  | nil =>
    obtain ⟨hhunt, hunread⟩ := h.found
    have hs : (s.foundBefore rest).withTrace s.seq.resyncCnt s.transport.log = s := by
      rw [State.foundBefore, ← hhunt, ← hunread, ← h.rxPlan]
      rfl
    refine ⟨s.transport.log, ?_⟩
    rw [receiveHunt_found (decide_eq_true hhunt), List.length_nil, Nat.add_zero, hs]
  | cons d stray ih =>
    obtain ⟨e, hbytes, -, hslid⟩ := h.slide
    obtain ⟨left, rfl⟩ := Nat.exists_eq_add_one_of_ne_zero (Nat.ne_zero_of_lt hleft)
    obtain ⟨l, hl⟩ := ih hslid (Nat.le_of_succ_le_succ hleft)
    refine ⟨l, ?_⟩
    rw [receiveHunt_slide h.not_found, receiveThen_bytes hbytes, hl, List.length_cons, Nat.add_comm stray.length,
      ← Nat.add_assoc]
    rfl

/-- With more stray bytes the hunt ends when it has used the resync window up. -/
theorem receiveHunt_of_tooMany {s : State} {stray rest : List Byte} (h : Hunting s stray rest) {left : Nat}
    (hleft : left < stray.length) : ∃ u, receiveHunt left s = (.err .header, u) ∧
      u.seq.resyncCnt = s.seq.resyncCnt + left ∧ u.transport.unread = s.transport.unread.drop left := by
  induction left generalizing s stray with
  | zero =>
    obtain ⟨d, stray, rfl⟩ := List.exists_cons_of_length_pos hleft
    exact ⟨s, receiveHunt_usedUp h.not_found, rfl, rfl⟩
  | succ left ih =>
    obtain ⟨d, stray, rfl⟩ := List.exists_cons_of_length_pos (Nat.zero_lt_of_lt hleft)
    obtain ⟨e, hbytes, hunread, hslid⟩ := h.slide
    obtain ⟨u, hu, hcnt, hrest⟩ := ih hslid (Nat.lt_of_succ_lt_succ hleft)
    refine ⟨u, ?eq, ?cnt, ?rest⟩
    case eq => rw [receiveHunt_slide h.not_found, receiveThen_bytes hbytes, hu]
    case cnt => exact hcnt.trans (Nat.add_right_comm s.seq.resyncCnt 1 left)
    case rest => rw [hrest, hunread, List.drop_drop, Nat.add_comm]

/-! ### RECEIVE -/

/-- The header occurs first after `stray` in what is unread. -/
structure HoldsStray (s : State) (stray rest : List Byte) : Prop
    extends Holds s (stray ++ mark s.cfg.version ++ rest) where
  first : ∀ j < stray.length,
    ((stray ++ mark s.cfg.version ++ rest).drop j).take (headerLen s.cfg.version) ≠ mark s.cfg.version

/-- A header that is first. -/
theorem HoldsStray.ofHeader {s : State} {rest : List Byte} (h : Holds s (mark s.cfg.version ++ rest)) :
    HoldsStray s [] rest := ⟨h, nofun⟩

/-- RECEIVE opens its window on the first bytes. -/
theorem HoldsStray.hunting {s : State} {stray rest : List Byte} (h : HoldsStray s stray rest) :
    ∃ w, receive s = receiveHunt s.cfg.resyncWindow ((s.rxRead (headerLen s.cfg.version)).2.openHunt w) ∧
      (s.rxRead (headerLen s.cfg.version)).2.transport.unread = s.transport.unread.drop (headerLen s.cfg.version) ∧
      Hunting ((s.rxRead (headerLen s.cfg.version)).2.openHunt w) stray rest := by
  have hsplit := List.take_append_drop (headerLen s.cfg.version) s.transport.unread
  have hlen : (s.transport.unread.take (headerLen s.cfg.version)).length = headerLen s.cfg.version := by
    rw [List.length_take, h.unread]
    simp only [List.length_append, mark_length]
    omega
  obtain ⟨hbytes, hholds⟩ := Holds.rxRead ⟨h.rxPlan, hsplit.symm⟩ hlen
  refine ⟨_, ?eq, hholds.unread, hholds.rxPlan, hlen, ?stream, h.first⟩
  case eq => rw [receive_eq, receiveThen_bytes hbytes]; rfl
  case stream => rw [openHunt_seq, openHunt_transport, hholds.unread, hsplit]; exact h.unread

/-- RECEIVE with stray bytes within the resync window comes to the read of the fixed bytes. -/
theorem receive_of_stray {s : State} {stray rest : List Byte} (h : HoldsStray s stray rest)
    (hleft : stray.length ≤ s.cfg.resyncWindow) :
    ∃ l, receive s = receivePrefix ((s.foundBefore rest).withTrace stray.length l) := by
  obtain ⟨w, heq, -, hhunting⟩ := h.hunting
  obtain ⟨l, hl⟩ := receiveHunt_of_stray hhunting hleft
  refine ⟨l, heq.trans (hl.trans ?_)⟩
  rw [openHunt_seq, Nat.zero_add]
  rfl

/-- RECEIVE with more stray bytes than the resync window allows. -/
theorem receive_of_tooMany {s : State} {stray rest : List Byte} (h : HoldsStray s stray rest)
    (hleft : s.cfg.resyncWindow < stray.length) :
    ∃ u, receive s = (.err .header, u) ∧ u.seq.resyncCnt = s.cfg.resyncWindow ∧
      u.transport.unread = s.transport.unread.drop (headerLen s.cfg.version + s.cfg.resyncWindow) := by
  obtain ⟨w, heq, hunread, hhunting⟩ := h.hunting
  obtain ⟨u, hu, hcnt, hrest⟩ := receiveHunt_of_tooMany hhunting hleft
  exact ⟨u, heq.trans hu, hcnt.trans (Nat.zero_add _), by rw [hrest, openHunt_transport, hunread, List.drop_drop]⟩

/-! ### After the header -/

theorem takeFrame_fst {s : State} (h : Memory.wf s.bufs.rx = true) (p body : List Byte) :
    (takeFrame s p body).1 =
      .ofDecoder (decFrame s.cfg.version s.cfg.crcSpan (mark s.cfg.version ++ p ++ body)) := by
  rw [takeFrame_eq, rxFrame_storeRx h]
  cases decFrame s.cfg.version s.cfg.crcSpan (mark s.cfg.version ++ p ++ body) <;> rfl

theorem takeFrame_rxFrame {s : State} (h : Memory.wf s.bufs.rx = true) (p body : List Byte) :
    (takeFrame s p body).2.rxFrame = mark s.cfg.version ++ p ++ body := by
  rw [takeFrame_eq]
  exact rxFrame_storeRx h _

/-- The announced frame is there: it is taken, and nothing after it. -/
theorem receivePrefix_of_frame {s : State} {p body rest : List Byte} (h : Holds s (p ++ (body ++ rest)))
    (hp : p.length = prefixLen s.cfg.version) (hmin : minStatusLen s.cfg.version ≤ lenField s.cfg.version p)
    (hbody : body.length = lenField s.cfg.version p) :
    ∃ u, receivePrefix s = takeFrame u p body ∧ Holds u rest ∧ u.cfg = s.cfg ∧ u.bufs = s.bufs ∧ u.seq = s.seq := by
  obtain ⟨hbytes, hp'⟩ := h.rxRead hp
  obtain ⟨hbytes', hrest⟩ := hp'.rxRead hbody
  refine ⟨_, ?_, hrest, rfl, rfl, rfl⟩
  rw [receivePrefix_eq, receiveThen_bytes hbytes, rxRead_cfg, if_neg (Nat.not_lt_of_le hmin), receiveBody_eq,
    rxRead_cfg, receiveThen_bytes hbytes']

/-- A LEN below the minimum: nothing after the fixed bytes is read. -/
theorem receivePrefix_of_shortLen {s : State} {p rest : List Byte} (h : Holds s (p ++ rest))
    (hp : p.length = prefixLen s.cfg.version) (hmin : lenField s.cfg.version p < minStatusLen s.cfg.version) :
    ∃ u, receivePrefix s = (.err .length, u) ∧ Holds u rest ∧ u.bufs = s.bufs ∧ u.seq = s.seq := by
  obtain ⟨hbytes, hrest⟩ := h.rxRead hp
  refine ⟨_, ?_, hrest, rfl, rfl⟩
  rw [receivePrefix_eq, receiveThen_bytes hbytes, rxRead_cfg, if_pos hmin]

/-! ### The transaction around RECEIVE -/

/-- A transaction whose frame is taken, and which awaits a response. -/
theorem exec_of_listening {k : Transaction} {s : State} (ht : Transacts k s) (htx : s.transport.txPlan = [])
    (hb : k = .write → s.ops.id ≠ s.cfg.broadcastId) :
    exec k.instr s = .next (concluded k (receive (s.started k).listening)) := by
  have ha : ((s.started k).transport.write (s.started k).txFrame).1 = .ok := by
    rw [started_transport, write_unplanned htx]
  have hbroadcast : (s.started k).isBroadcast k = false := by
    rw [started_isBroadcast, ← Bool.not_eq_true, isBroadcast_iff]
    exact fun h => hb h.1 h.2
  rw [exec_of_transacts ht, transact_of_sent ha hbroadcast]
  rfl

section

variable (k : Transaction) (s : State)

@[simp] theorem started_listening_cfg : (s.started k).listening.cfg = s.cfg := by cases k <;> rfl

@[simp] theorem started_listening_free : (s.started k).listening.free = s.free := by cases k <;> rfl

@[simp] theorem started_listening_reqId : (s.started k).listening.seq.reqId = s.ops.id := by cases k <;> rfl

@[simp] theorem started_listening_rx : (s.started k).listening.bufs.rx = s.bufs.rx := by cases k <;> rfl

@[simp] theorem started_listening_rxlen : (s.started k).listening.bufs.rxlen = s.bufs.rxlen := by cases k <;> rfl

@[simp] theorem started_listening_unread : (s.started k).listening.transport.unread = s.transport.unread :=
  (write_unread _ _).trans (congrArg Transport.unread (started_transport s k))

@[simp] theorem started_listening_rxPlan : (s.started k).listening.transport.rxPlan = s.transport.rxPlan :=
  (write_rxPlan _ _).trans (congrArg Transport.rxPlan (started_transport s k))

end

theorem started_listening_txStream {k : Transaction} {s : State} (hw : Memory.wf s.bufs.tx = true)
    (htx : s.transport.txPlan = []) :
    (s.started k).listening.transport.txStream = s.transport.txStream ++ requestFrame k s := by
  have ha : ((s.started k).transport.write (s.started k).txFrame).1 = .ok := by
    rw [started_transport, write_unplanned htx]
  rw [← started_txFrame hw k, ← started_transport s k]
  exact write_ok_txStream ha

end Sys2Proof.Machine
end

section
/-!
PROOF. O44, O48 and O60: the transaction whose response begins with the header, and what it concludes from it.
-/
namespace Sys2Proof.Machine

/-! ### The frame of a response -/

/-- What the decoder accepts is the header, the fixed bytes with LEN, and LEN bytes more. -/
theorem decFrame_ok_shape {v : Version} {span : CrcSpan} {b : List Byte} {st : StatusPacket}
    (h : decFrame v span b = .ok st) : ∃ p body, b = mark v ++ p ++ body ∧ p.length = prefixLen v ∧
      minStatusLen v ≤ lenField v p ∧ body.length = lenField v p := by
  cases v with
  | v1 =>
    obtain ⟨-, hlen, rfl⟩ := decV1_ok h
    have hfield : (BitVec.ofNat 8 (st.params.length + 2)).toNat = st.params.length + 2 := Nat.mod_eq_of_lt (by omega)
    exact ⟨[_, _], _ :: _, encV1_cons st.id st.error st.params, rfl, (Nat.le_add_left 2 _).trans_eq hfield.symm,
      (by simp : _ = st.params.length + 2).trans hfield.symm⟩
  | v2 =>
    obtain ⟨i, -, hlen, rfl⟩ := decV2_ok h
    have hpos := stuff_cons_length_pos st.error st.params
    have hfield : (word16 (lo8 (BitVec.ofNat 16 ((stuff (st.error :: st.params)).length + 3)))
        (hi8 (BitVec.ofNat 16 ((stuff (st.error :: st.params)).length + 3)))).toNat =
        (stuff (st.error :: st.params)).length + 3 := by
      rw [word16_lo8_hi8]
      exact Nat.mod_eq_of_lt (by omega)
    exact ⟨[_, _, _], _ :: _, frameV2_cons span st.id i (stuff (st.error :: st.params)), rfl,
      (Nat.add_le_add_right hpos 3).trans_eq hfield.symm,
      (by simp : _ = (stuff (st.error :: st.params)).length + 3).trans hfield.symm⟩

/-! ### The transaction -/

theorem takeFrame_transport (s : State) (p b : List Byte) : (takeFrame s p b).2.transport = s.transport := by
  rw [takeFrame_eq]; rfl

theorem takeFrame_seq (s : State) (p b : List Byte) : (takeFrame s p b).2.seq = s.seq := by
  rw [takeFrame_eq]; rfl

section

variable {k : Transaction} {s : State} {p rest : List Byte}

/-- The header is first in what a transaction listens to. -/
theorem started_receive_of_header (hu : s.transport.Unplanned) (h : s.transport.unread = mark s.cfg.version ++ rest) :
    ∃ v, receive (s.started k).listening = receivePrefix v ∧ Holds v rest ∧ v.cfg = s.cfg ∧
      v.bufs = (s.started k).listening.bufs ∧ v.seq.resyncCnt = 0 := by
  have hstray : HoldsStray (s.started k).listening [] rest :=
    .ofHeader ⟨by rw [started_listening_rxPlan]; exact hu.2, by rw [started_listening_unread, started_listening_cfg, h]⟩
  obtain ⟨l, hl⟩ := receive_of_stray hstray (Nat.zero_le _)
  exact ⟨_, hl, ⟨rfl, rfl⟩, started_listening_cfg k s, rfl, rfl⟩

/-- What comes of a response with the announced frame: the frame is consumed and stored, and the decoder's answer is judged by the
latched request. -/
theorem exec_of_frame {body : List Byte} (hinv : s.Inv) (ht : Transacts k s) (hu : s.transport.Unplanned)
    (hb : k = .write → s.ops.id ≠ s.cfg.broadcastId) (hp : p.length = prefixLen s.cfg.version)
    (hmin : minStatusLen s.cfg.version ≤ lenField s.cfg.version p) (hbody : body.length = lenField s.cfg.version p)
    (h : s.transport.unread = mark s.cfg.version ++ p ++ body ++ rest) :
    ∃ t q, exec k.instr s = .next t ∧
      t.res = resultRegs s.free
        (conclude k q (.ofDecoder (decFrame s.cfg.version s.cfg.crcSpan (mark s.cfg.version ++ p ++ body)))).1 ∧
      q.reqId = s.ops.id ∧ (k = .read → q.reqW = s.ops.regw) ∧
      t.transport.unread = rest ∧ t.transport.txStream = s.transport.txStream ++ requestFrame k s ∧
      t.rxFrame = mark s.cfg.version ++ p ++ body ∧ t.seq.resyncCnt = 0 := by
  rw [List.append_assoc, List.append_assoc] at h
  obtain ⟨v, hreceive, hholds, hcfg, hbufs, hcnt⟩ := started_receive_of_header (k := k) hu h
  rw [← hcfg] at hp hmin hbody
  obtain ⟨u, hprefix, hrest, hcfg', hbufs', hseq⟩ := receivePrefix_of_frame hholds hp hmin hbody
  obtain ⟨reads, hr, -, -⟩ := receive_receives (s.started k).listening
  have hw : Memory.wf u.bufs.rx = true := by rw [hbufs', hbufs, started_listening_rx]; exact hinv.rxWf
  have hfst := takeFrame_fst hw p body
  have hrx := takeFrame_rxFrame hw p body
  have hx := exec_of_listening ht hu.1 hb
  rw [hreceive, hprefix] at hr hx
  rw [hcfg', hcfg] at hfst hrx
  refine ⟨_, _, hx, ?res, hr.reqId.trans (started_listening_reqId k s), ?reqW, ?unread, ?txStream, hrx, ?resyncCnt⟩
  case res => rw [concluded, finish_res, hr.free, started_listening_free, hfst]
  case reqW => rintro rfl; exact hr.reqW
  case unread => rw [concluded, finish_transport, takeFrame_transport, hrest.unread]
  case txStream => exact hr.txStream.trans (started_listening_txStream hinv.txWf hu.1)
  case resyncCnt =>
    show (takeFrame u p body).2.seq.resyncCnt = 0
    rw [takeFrame_seq, hseq, hcnt]

/-- What comes of a response whose LEN is below the minimum. -/
theorem exec_of_shortLen (hinv : s.Inv) (ht : Transacts k s) (hu : s.transport.Unplanned)
    (hb : k = .write → s.ops.id ≠ s.cfg.broadcastId) (hp : p.length = prefixLen s.cfg.version)
    (hmin : lenField s.cfg.version p < minStatusLen s.cfg.version)
    (h : s.transport.unread = mark s.cfg.version ++ p ++ rest) :
    ∃ t, exec k.instr s = .next t ∧ t.res.kind = .frameError ∧ t.res.cause = .length ∧ t.transport.unread = rest ∧
      t.bufs.rx = s.bufs.rx ∧ t.bufs.rxlen = s.bufs.rxlen ∧ t.seq.resyncCnt = 0 ∧
      t.transport.txStream = s.transport.txStream ++ requestFrame k s := by
  rw [List.append_assoc] at h
  obtain ⟨v, hreceive, hholds, hcfg, hbufs, hcnt⟩ := started_receive_of_header (k := k) hu h
  rw [← hcfg] at hp hmin
  obtain ⟨u, hprefix, hrest, hbufs', hseq⟩ := receivePrefix_of_shortLen hholds hp hmin
  obtain ⟨reads, hr, -, -⟩ := receive_receives (s.started k).listening
  have hx := exec_of_listening ht hu.1 hb
  rw [hreceive, hprefix] at hr hx
  have hbufs' := hbufs'.trans hbufs
  refine ⟨_, hx, rfl, rfl, hrest.unread, ?rx, ?rxlen, ?resyncCnt,
    hr.txStream.trans (started_listening_txStream hinv.txWf hu.1)⟩
  case rx => exact (congrArg Buffers.rx hbufs').trans (started_listening_rx k s)
  case rxlen => exact (congrArg Buffers.rxlen hbufs').trans (started_listening_rxlen k s)
  case resyncCnt => exact (congrArg Sequencer.resyncCnt hseq).trans hcnt

end

/-- Settles O44: the classification of a frame that decodes, test by test. -/
theorem responsesAreClassifiedInOrder : Obligations.ResponsesAreClassifiedInOrder := by
  intro k s b rest st hinv ht hu hb hd h
  obtain ⟨p, body, rfl, hp, hmin, hbody⟩ := decFrame_ok_shape hd
  obtain ⟨t, q, hx, hres, hid, hw, hunread, htx, hrx, hcnt⟩ := exec_of_frame hinv ht hu hb hp hmin hbody h
  have hres : t.res = resultRegs s.free (classify k q st).1 := by rw [hres, hd]; rfl
  rw [← hid]
  refine ⟨t, hx, hunread, htx, hrx, hcnt, fun hne => ?id, fun he hne => ?error, fun he h0 hk hn => ?count,
    fun he h0 hk hn => ?read, fun he h0 hk => ?write⟩
  case id => rw [hres, classify_unexpectedId k hne]; exact ⟨rfl, rfl⟩
  case error => rw [hres, classify_motorError k he hne]; exact ⟨rfl, rfl⟩
  case count => subst hk; rw [hres, classify_wrongCount he h0 (by rwa [hw rfl])]; exact ⟨rfl, rfl⟩
  case read => subst hk; rw [hres, classify_read he h0 (by rwa [hw rfl])]; exact ⟨rfl, rfl⟩
  case write => subst hk; rw [hres, classify_write he h0]; rfl

/-- Settles O60, by the two ends of RECEIVE after the header. -/
theorem malformedResponsesGiveFrameError : Obligations.MalformedResponsesGiveFrameError := by
  intro k s p rest hinv ht hu hb hp
  refine ⟨fun body c hmin hbody h hd => ?frame, fun hmin => exec_of_shortLen hinv ht hu hb hp hmin⟩
  case frame =>
    obtain ⟨t, q, hx, hres, -, -, hunread, htx, hrx, hcnt⟩ := exec_of_frame hinv ht hu hb hp hmin hbody h
    rw [hd] at hres
    exact ⟨t, hx, by rw [hres]; rfl, by rw [hres]; rfl, hunread, hrx, hcnt, htx⟩

/-- A motor's answer with the bytes of a register of any width fits a status frame. -/
theorem statusFits_leBytes (v : Version) (error : Byte) (x : Word32) (w : BitVec 3) :
    statusFits v error (leBytes x w.toNat) = true := by
  have hw := w.isLt
  cases v with
  | v1 => exact (inDomainV1_iff _).2 (by rw [leBytes_length]; omega)
  | v2 =>
    have hstuff := stuff_length_le (error :: leBytes x w.toNat)
    rw [List.length_cons, leBytes_length] at hstuff
    exact (inDomainV2_iff _).2 (by omega)

/-- Settles O48: the response is the status frame of the bytes written, classified by O44. -/
theorem writeThenReadReturnsTheValue : Obligations.WriteThenReadReturnsTheValue := by
  intro s rest hinv ht hu hv h
  have hd := decFrame_statusFrame (statusFits_leBytes s.cfg.version 0 s.ops.value s.ops.regw) s.cfg.crcSpan s.ops.id
  obtain ⟨t, hx, -, -, -, -, -, -, -, hread, -⟩ := responsesAreClassifiedInOrder .read s _ rest _ hinv ht hu nofun hd h
  obtain ⟨hkind, hvalue⟩ := hread rfl rfl rfl (leBytes_length _ _)
  refine ⟨?frame, t, hx, hkind, hvalue.trans (leValue_leBytes hv)⟩
  case frame =>
    show encFrame s.cfg.version s.cfg.crcSpan s.ops.id opWrite (writeParams s.cfg.version s.ops) = _
    cases s.cfg.version <;> rfl

end Sys2Proof.Machine
end

section
/-!
PROOF. O46: the hunt discards exactly the stray bytes. After it RECEIVE goes on from the same state as without them, but for the
records of what happened (`receivePrefix_sameButTrace`), on which no result depends.
-/
namespace Sys2Proof.Machine

/-! ### The records do not matter after the hunt -/

/-- Both have returned the same, and the states differ in the log and the count of stray bytes at most, the latter being `n` in the
first. -/
def SameButTrace (n : Nat) (x y : Received × State) : Prop := ∃ l, x = (y.1, y.2.withTrace n l)

variable {n : Nat}

theorem receiveThen_sameButTrace {m : Nat} {f : List Byte → State → Received × State}
    (hf : ∀ b u l, SameButTrace n (f b (u.withTrace n l)) (f b u)) (s : State) (l : List Exchange) :
    SameButTrace n (receiveThen (s.withTrace n l) m f) (receiveThen s m f) := by
  have hread : ((s.withTrace n l).rxRead m).2 =
    (s.rxRead m).2.withTrace n (l ++ [.rxRead m s.seq.deadline (s.rxRead m).1]) := rfl
  cases hr : (s.rxRead m).1 with
  | bytes b =>
    rw [receiveThen_bytes hr, receiveThen_bytes (s := s.withTrace n l) hr, hread]
    exact hf b _ _
  | timeout =>
    rw [receiveThen_timeout hr, receiveThen_timeout (s := s.withTrace n l) hr, hread]
    exact ⟨_, rfl⟩
  | ioError =>
    rw [receiveThen_ioError hr, receiveThen_ioError (s := s.withTrace n l) hr, hread]
    exact ⟨_, rfl⟩

theorem receiveBody_sameButTrace (p : List Byte) (s : State) (l : List Exchange) :
    SameButTrace n (receiveBody p (s.withTrace n l)) (receiveBody p s) := by
  rw [receiveBody_eq, receiveBody_eq]
  refine receiveThen_sameButTrace (fun b u l => ⟨l, ?_⟩) s l
  rw [takeFrame_eq, takeFrame_eq]
  rfl

theorem receivePrefix_sameButTrace (s : State) (l : List Exchange) :
    SameButTrace n (receivePrefix (s.withTrace n l)) (receivePrefix s) := by
  rw [receivePrefix_eq, receivePrefix_eq]
  refine receiveThen_sameButTrace (fun p u l => ?_) s l
  by_cases hl : lenField u.cfg.version p < minStatusLen u.cfg.version
  · rw [if_pos hl]; exact ⟨l, if_pos hl⟩
  · rw [if_neg hl]
    obtain ⟨l', h⟩ := receiveBody_sameButTrace (n := n) p u l
    exact ⟨l', (if_neg hl).trans h⟩

/-- The sequencer is as before after the reads that follow the hunt. -/
theorem receivePrefix_seq (s : State) : (receivePrefix s).2.seq = s.seq := by
  have hthen {f : List Byte → State → Received × State} (hf : ∀ b u, (f b u).2.seq = u.seq) (s : State) (m : Nat) :
      (receiveThen s m f).2.seq = s.seq := by
    unfold receiveThen
    split
    · exact hf _ _
    · rfl
    · rfl
  rw [receivePrefix_eq]
  refine hthen (fun p u => ?_) s _
  split
  · rfl
  · rw [receiveBody_eq]
    exact hthen (fun b u => takeFrame_seq u p b) u _

/-! ### The transaction with and without the stray bytes -/

theorem concluded_sameButTrace {k : Transaction} {x y : Received × State} (h : SameButTrace n x y) :
    (concluded k x).res = (concluded k y).res ∧ (concluded k x).bufs = (concluded k y).bufs ∧
      (concluded k x).transport.unread = (concluded k y).transport.unread := by
  obtain ⟨l, rfl⟩ := h
  refine ⟨?res, rfl, rfl⟩
  case res =>
    have hc : conclude k (y.2.withTrace n l).seq y.1 = conclude k y.2.seq y.1 := conclude_congr k rfl rfl y.1
    simp only [concluded, finish_res, hc]
    rfl

/-- The state with other unread bytes. -/
def State.withUnread (s : State) (u : List Byte) : State := { s with transport := { s.transport with unread := u } }

theorem write_withUnread (t : Transport) (u f : List Byte) :
    Transport.write { t with unread := u } f = ((t.write f).1, { (t.write f).2 with unread := u }) := by
  unfold Transport.write
  dsimp only
  cases t.txPlan.headD .ok <;> rfl

theorem listening_withUnread (s : State) (u : List Byte) : (s.withUnread u).listening = s.listening.withUnread u := by
  have h := congrArg Prod.snd (write_withUnread s.transport u s.txFrame)
  exact (congrArg (fun t => State.startReceive (State.setTxn { s with transport := t } .sent)) h :)

theorem started_withUnread (k : Transaction) (s : State) (u : List Byte) :
    (s.withUnread u).started k = (s.started k).withUnread u := by
  cases k <;> rfl

/-- What a transaction listens to where the header comes first after `stray`. -/
theorem started_holdsStray {k : Transaction} {s : State} {stray rest : List Byte} (hu : s.transport.Unplanned)
    (h : s.transport.unread = stray ++ mark s.cfg.version ++ rest)
    (hfirst : ∀ j < stray.length, (s.transport.unread.drop j).take (headerLen s.cfg.version) ≠ mark s.cfg.version) :
    HoldsStray (s.started k).listening stray rest where
  rxPlan := (started_listening_rxPlan k s).trans hu.2
  unread := by rw [started_listening_unread, started_listening_cfg, h]
  first := by rw [started_listening_cfg, ← h]; exact hfirst

/-- Settles O46: both hunts end before the same bytes, or the window is used up. -/
theorem huntDiscardsExactlyTheStrayBytes : Obligations.HuntDiscardsExactlyTheStrayBytes := by
  intro k s stray rest hinv ht hu hb h hfirst
  have hstray : HoldsStray (s.started k).listening stray rest := started_holdsStray hu h hfirst
  have hx := exec_of_listening ht hu.1 hb
  refine ⟨fun hle => ?within, fun hlt => ?tooMany⟩
  case within =>
    have hheader : HoldsStray ((s.withUnread (mark s.cfg.version ++ rest)).started k).listening [] rest :=
      started_holdsStray hu rfl nofun
    have hx' := exec_of_listening (s := s.withUnread (mark s.cfg.version ++ rest)) ht hu.1 hb
    obtain ⟨l, hreceive⟩ := receive_of_stray hstray (by rwa [started_listening_cfg])
    obtain ⟨l', hreceive'⟩ := receive_of_stray hheader (Nat.zero_le _)
    rw [started_withUnread, listening_withUnread] at hreceive' hx'
    have hseq := receivePrefix_seq (((s.started k).listening.foundBefore rest).withTrace stray.length l)
    rw [hreceive] at hx
    rw [hreceive'] at hx'
    obtain ⟨hres, hbufs, hunread⟩ := concluded_sameButTrace (k := k) (receivePrefix_sameButTrace (n := stray.length)
      (((s.started k).listening.foundBefore rest).withTrace 0 l') l)
    refine ⟨_, _, hx, hx', (congrArg Sequencer.resyncCnt hseq :), ?hunt, hres, hbufs, hunread⟩
    case hunt => exact (congrArg Sequencer.hunt hseq).trans (congrArg mark (congrArg Cfg.version (started_listening_cfg k s)))
  case tooMany =>
    rw [← started_listening_cfg k s] at hlt
    obtain ⟨u, hreceive, hcnt, hrest⟩ := receive_of_tooMany hstray hlt
    rw [hreceive] at hx
    rw [started_listening_cfg] at hcnt hrest
    rw [started_listening_unread] at hrest
    exact ⟨_, hx, rfl, rfl, hcnt, hrest⟩

end Sys2Proof.Machine
end

section
/-!
PROOF. O45 and O47: a first read that times out, and how much of the RX stream a transaction takes (`Consumes`).
-/
namespace Sys2Proof.Machine

/-! ### A first read that times out -/

/-- Settles O45: RECEIVE ends with its first read. -/
theorem timeoutLeavesTheEngineUsable : Obligations.TimeoutLeavesTheEngineUsable := by
  intro s arrived lost plan hinv ht htx hplan
  have hread : ((s.started .read).listening.rxRead (headerLen s.cfg.version)).1 = .timeout := by
    rw [rxRead_fst, Transport.read, started_listening_rxPlan, hplan]
    rfl
  have hreceive : receive (s.started .read).listening =
      (.timeout, ((s.started .read).listening.rxRead (headerLen s.cfg.version)).2) := by
    rw [receive_eq]
    exact receiveThen_timeout hread _
  have ha : ((s.started .read).transport.write (s.started .read).txFrame).1 = .ok := by
    rw [started_transport, write_unplanned htx]
  have hx := exec_of_listening (k := .read) ht htx nofun
  have hlog := (rxRead_receives (s.started .read).listening (headerLen s.cfg.version)).log_of_listening ha
  rw [hread, started_txFrame hinv.txWf] at hlog
  rw [hreceive] at hx
  exact ⟨_, hx, rfl, hlog, rfl, rfl⟩

/-! ### How much is consumed -/

/-- From `s` to `t` no read was planned, and at most `n` unread bytes have been taken. -/
structure Consumes (n : Nat) (s t : State) : Prop where
  rxPlan : t.transport.rxPlan = []
  unread : s.transport.unread.length ≤ t.transport.unread.length + n

theorem rxRead_consumes {s : State} (h : s.transport.rxPlan = []) (n : Nat) : Consumes n s (s.rxRead n).2 := by
  rcases Nat.lt_or_ge s.transport.unread.length n with hn | hn
  · have hr := read_unplanned_timeout h hn s.seq.deadline
    exact ⟨by rw [rxRead_transport, hr, h], by rw [rxRead_transport, hr]; exact Nat.le_add_right _ _⟩
  · have hr := read_unplanned_bytes h hn s.seq.deadline
    refine ⟨by rw [rxRead_transport, hr, h], ?_⟩
    rw [rxRead_transport, hr, List.length_drop]
    omega

/-- One read of `n` bytes, and what follows it if it gave them. -/
theorem receiveThen_consumes {s : State} (h : s.transport.rxPlan = []) {n m : Nat}
    {f : List Byte → State → Received × State}
    (hf : ∀ b u, u.cfg = s.cfg → u.transport.rxPlan = [] → Consumes m u (f b u).2) :
    Consumes (n + m) s (receiveThen s n f).2 := by
  have hr := rxRead_consumes h n
  have hunread := hr.unread
  have hfailed : Consumes (n + m) s (s.rxRead n).2 := ⟨hr.rxPlan, by omega⟩
  cases ha : (s.rxRead n).1 with
  | bytes b =>
    rw [receiveThen_bytes ha]
    have hb := hf b (s.rxRead n).2 rfl hr.rxPlan
    have hunread' := hb.unread
    exact ⟨hb.rxPlan, by omega⟩
  | timeout => rw [receiveThen_timeout ha]; exact hfailed
  | ioError => rw [receiveThen_ioError ha]; exact hfailed

/-- The longest LEN of a version. -/
def maxLen : Version → Nat
  | .v1 => 255
  | .v2 => 65535

theorem lenField_le (v : Version) (p : List Byte) : lenField v p ≤ maxLen v := by
  cases v with
  | v1 => exact Nat.le_of_lt_succ (byteAt p 1).isLt
  | v2 => exact Nat.le_of_lt_succ (word16 (byteAt p 1) (byteAt p 2)).isLt

theorem Consumes.mono {m n : Nat} {s t : State} (h : Consumes m s t) (hmn : m ≤ n) : Consumes n s t :=
  ⟨h.rxPlan, h.unread.trans (Nat.add_le_add_left hmn _)⟩

theorem receiveBody_consumes {s : State} (h : s.transport.rxPlan = []) (p : List Byte) :
    Consumes (maxLen s.cfg.version) s (receiveBody p s).2 := by
  rw [receiveBody_eq]
  refine (receiveThen_consumes (m := 0) h fun b u _ hu => ?_).mono (lenField_le s.cfg.version p)
  exact ⟨by rw [takeFrame_transport, hu], by rw [takeFrame_transport]; exact Nat.le_refl _⟩

theorem receivePrefix_consumes {s : State} (h : s.transport.rxPlan = []) :
    Consumes (prefixLen s.cfg.version + maxLen s.cfg.version) s (receivePrefix s).2 := by
  rw [receivePrefix_eq]
  refine receiveThen_consumes h fun p u hc hu => ?_
  split
  · exact ⟨hu, Nat.le_add_right _ _⟩
  · exact hc ▸ receiveBody_consumes hu p

theorem receiveHunt_consumes (left : Nat) {s : State} (h : s.transport.rxPlan = []) :
    Consumes (left + (prefixLen s.cfg.version + maxLen s.cfg.version)) s (receiveHunt left s).2 := by
  induction left generalizing s with
  | zero =>
    by_cases hf : s.headerFound = true
    · rw [receiveHunt_found hf, Nat.zero_add]; exact receivePrefix_consumes h
    · rw [receiveHunt_usedUp hf]; exact ⟨h, Nat.le_add_right _ _⟩
  | succ left ih =>
    by_cases hf : s.headerFound = true
    · rw [receiveHunt_found hf]; exact (receivePrefix_consumes h).mono (Nat.le_add_left _ _)
    · rw [receiveHunt_slide hf, Nat.add_comm left 1, Nat.add_assoc]
      refine receiveThen_consumes h fun d u hc hu => ?_
      have hslid := ih (s := u.slideHunt d) hu
      rw [slideHunt_cfg, hc] at hslid
      exact ⟨hslid.rxPlan, hslid.unread⟩

theorem receive_consumes {s : State} (h : s.transport.rxPlan = []) :
    Consumes (headerLen s.cfg.version + (s.cfg.resyncWindow + (prefixLen s.cfg.version + maxLen s.cfg.version))) s
      (receive s).2 := by
  rw [receive_eq]
  refine receiveThen_consumes h fun w u hc hu => ?_
  have hopen := receiveHunt_consumes u.cfg.resyncWindow (s := u.openHunt w) hu
  rw [openHunt_cfg, hc] at hopen
  exact ⟨by rw [hc]; exact hopen.rxPlan, by rw [hc]; exact hopen.unread⟩

/-- A transaction takes unread bytes in RECEIVE alone. -/
theorem transact_consumes (k : Transaction) {s : State} (h : s.transport.rxPlan = []) :
    s.transport.unread.length ≤ (transact k s).transport.unread.length +
      (headerLen s.cfg.version + (s.cfg.resyncWindow + (prefixLen s.cfg.version + maxLen s.cfg.version))) := by
  have hwritten : (s.txWrite s.txFrame).2.transport.unread = s.transport.unread := write_unread _ _
  cases ha : (s.transport.write s.txFrame).1 with
  | ioError =>
    rw [transact_of_ioError ha, finish_transport, hwritten]
    exact Nat.le_add_right _ _
  | ok =>
    cases hb : s.isBroadcast k with
    | true =>
      rw [transact_of_broadcast ha hb, deliver_transport, setTxn_transport, hwritten]
      exact Nat.le_add_right _ _
    | false =>
      have hlistening := receive_consumes (s := s.listening) ((write_rxPlan _ _).trans h)
      rw [transact_of_sent ha hb, ← hwritten]
      exact hlistening.unread

/-- Settles O47: what RECEIVE reads in its phases, added up. -/
theorem receiveConsumesABoundedNumberOfBytes : Obligations.ReceiveConsumesABoundedNumberOfBytes := by
  intro k s t hu hx
  show s.transport.unread.length ≤ t.transport.unread.length + headerLen s.cfg.version + s.cfg.resyncWindow +
    prefixLen s.cfg.version + maxLen s.cfg.version
  rcases transaction_cases hx with ⟨-, -, rfl⟩ | ⟨-, rfl⟩
  · rw [deliver_transport, accept_transport, setCmd_transport]
    omega
  · have h := transact_consumes k (s := s.started k) (by rw [started_transport]; exact hu.2)
    rw [started_transport, started_cfg] at h
    omega

end Sys2Proof.Machine
end

section
/-!
PROOF. O26 to O29: what a result writes, and that after it the block is free: a delivery leaves it ready (`deliver_ready`), and a
ready block refuses nothing as busy (`exec_ne_busy`; `60_exceptions.md` R133, R135).
-/
namespace Sys2Proof.Machine

/-! ### An idle block refuses nothing as busy -/

theorem ite_ne_busy {c : Prop} [Decidable c] {x y : Out} (hx : x ≠ .refused .busy) (hy : y ≠ .refused .busy) :
    (if c then x else y) ≠ .refused .busy := by
  split
  · exact hx
  · exact hy

theorem encodeBody_ne_busy (s : State) : encodeBody s ≠ .refused .busy := ite_ne_busy nofun nofun

theorem decodeBody_ne_busy (s : State) : decodeBody s ≠ .refused .busy := by
  rw [decodeBody_eq]
  nofun

theorem transactionBody_ne_busy (k : Transaction) (s : State) : transactionBody k s ≠ .refused .busy :=
  ite_ne_busy nofun (ite_ne_busy nofun nofun)

theorem offer_ne_busy {s : State} (hr : s.ready = true) {k : State → Out} (hk : ∀ u, k u ≠ .refused .busy) :
    offer s k ≠ .refused .busy := by
  rw [offer_of_ready hr]
  exact hk s.accept

theorem onlyIn_ne_busy {s : State} (hr : s.ready = true) (v : Version) {k : Out} (hk : k ≠ .refused .busy) :
    onlyIn v s k ≠ .refused .busy := by
  rw [onlyIn, if_pos hr]
  exact ite_ne_busy hk nofun

theorem command_ne_busy {s : State} (hr : s.ready = true) (c : Command) : exec c.instr s ≠ .refused .busy := by
  cases c with
  | encode => exact offer_ne_busy (s := s.setCmd 1) hr encodeBody_ne_busy
  | decode => exact offer_ne_busy (s := s.setCmd 2) hr decodeBody_ne_busy
  | transaction k =>
    rw [Command.instr, exec_transaction]
    exact offer_ne_busy (s := s.setCmd k.code) hr (transactionBody_ne_busy k)

theorem loaded_ready (i : Instr) (s : State) : (loaded i s).ready = s.ready := by cases i <;> rfl

/-- An idle block may refuse an instruction for its operands or its version, never as busy. -/
theorem exec_ne_busy {s : State} (hr : s.ready = true) (i : Instr) : exec i s ≠ .refused .busy := by
  have hcommand : exec (commandOf i).instr (loaded i s) ≠ .refused .busy :=
    command_ne_busy ((loaded_ready i s).trans hr) (commandOf i)
  cases i with
  | encode | decode | readData | writeData => exact hcommand
  | v1Instruction | v2Instruction => exact onlyIn_ne_busy hr _ (ite_ne_busy hcommand nofun)
  | v1Status | v2Status => exact ite_ne_busy ((decodeCall_of_ready hr _).trans_ne hcommand) nofun
  | readV1 | readV2 | writeV1W1 | writeV1W2 | writeV1W4 | writeV2W1 | writeV2W2 | writeV2W4 =>
    exact onlyIn_ne_busy hr _ hcommand

/-- Settles O29: a completed instruction has delivered a result, and a delivery leaves the block ready. -/
theorem afterAnyResultTheNextCommandIsAccepted : Obligations.AfterAnyResultTheNextCommandIsAccepted := by
  intro i s t h
  obtain ⟨r, ⟨u, -, rfl⟩, -, -⟩ := exec_delivers h
  exact ⟨rfl, rfl, rfl, exec_ne_busy (deliver_ready r u), fun j s => exec_of_busy⟩

/-! ### Bytes that arrive -/

/-- Settles O26: at rest the step is the script's event, the arrival. -/
theorem arrivingBytesOnlyWaitInTheTransport : Obligations.ArrivingBytesOnlyWaitInTheTransport :=
  fun _ _ _ hp hs => step_event hp hs

/-! ### What a result writes -/

theorem decodedResults_of_instr {st : StatusPacket} {i : Byte} (h : st.instr = some i) (n : Nat) :
    (decodedResults n st).instr = i ∧ (decodedResults n st).specified = [.kind, .id, .instr, .err, .params] := by
  simp [decodedResults, h]

theorem decodedResults_specified_of_noInstr {st : StatusPacket} (h : st.instr = none) (n : Nat) :
    (decodedResults n st).specified = [.kind, .id, .err, .params] := by
  simp [decodedResults, h]

/-- Settles O27, result by result; `RES_PLEN` counts the parameters of every packet within its 17 bits. -/
theorem deliveryWritesTheResultAndFreesTheBlock : Obligations.DeliveryWritesTheResultAndFreesTheBlock := by
  intro r s
  refine ⟨rfl, rfl, rfl, rfl, rfl, rfl, resultRegs_kind s.free r, ?registers⟩
  cases r with
  | okDecode st =>
    exact ⟨rfl, rfl, fun i hi => decodedResults_of_instr hi s.free, fun hi => decodedResults_specified_of_noInstr hi s.free,
      fun hlen => resParams_okDecode s st (hlen.trans_lt (by decide))⟩
  | okRead | frameError | motorError | unexpectedId => exact ⟨rfl, rfl⟩
  | okEncode | okWrite | timeout | widthMismatch | ioError => rfl

/-- Settles O28, by the tables of codes. -/
theorem resultKindsAndCausesHaveTheirCodes : Obligations.ResultKindsAndCausesHaveTheirCodes :=
  ⟨rfl, rfl, rfl, rfl, rfl, rfl, rfl, rfl, rfl, rfl, rfl, rfl⟩

end Sys2Proof.Machine
end

section
/-!
PROOF. O18: a construction is idle with `DONE = 0`, and while `DONE = 0` the flags are all that the port shows
(`readable_iff_of_not_done`; `10_state.md` R17, R30, `70_reset_and_hazards.md` R146).
-/
namespace Sys2Proof.Machine

/-! ### What the port shows while `DONE = 0` -/

theorem resValid_of_not_done {s : State} (hd : s.flags.done = false) (q : ResReg) : s.resValid q = false := by
  simp [State.resValid, hd]

theorem txValid_of_not_done {s : State} (hd : s.flags.done = false) : s.txValid = false := by
  simp [State.txValid, hd]

/-- Until a command completes the host sees its two flags and nothing more: a result register waits for `DONE`, and so do the
buffer registers `TXLEN` and `TXBUF`. -/
theorem readable_iff_of_not_done {s : State} (hd : s.flags.done = false) (r : HostReg) :
    readable s r = true ↔ r = .busy ∨ r = .done := by
  cases r with
  | busy | done => simp [readable]
  | kind | cause | id | instr | err | value | plen | params => simp [readable, resValid_of_not_done hd]
  | txlen | txbuf => simp [readable, txValid_of_not_done hd]

/-! ### The constructed instance -/

/-- Settles O18: the registers a construction sets, and the port of a block whose `DONE` is 0. -/
theorem resetIsIdleAndMakesNoRequest : Obligations.ResetIsIdleAndMakesNoRequest := by
  intro cfg tr
  have hready : (State.construct cfg tr).ready = true := (ready_iff _).2 ⟨rfl, rfl⟩
  exact ⟨rfl, rfl, rfl, rfl, hready, readable_iff_of_not_done rfl⟩

end Sys2Proof.Machine
end
